-- ==== Sys2Proof/Word.lean ====
section
/-! DEFINITION. The word types of the CORE (spec/00_scope.md R6, R7): every value is an unsigned bit string
of a fixed width. The arithmetic that narrows an exact result stands in Machine/Operands.lean. -/

namespace Sys2Proof

/-- A register, a memory byte, an immediate, a sprite row: 8 bits (R20, R21, R60). -/
abbrev Byte := BitVec 8

/-- An instruction word, `I`, `pc`, a call-stack slot: 16 bits (R20, R25, R26, R27, R90). -/
abbrev Word := BitVec 16

/-- The index of a general register, 0 to 15 (R21); the fields `x` and `y` of an instruction (R92). -/
abbrev Reg := Fin 16

end Sys2Proof
end

