-- ==== Sys2Proof/Syntax.lean ====
section
/-! DEFINITION. The instruction set: one constructor per row of spec/opcode_table.json (spec/30_encoding.md R95),
in the table's order. Operands are the fields of R91 and R92: `x` and `y` register indices, `kk` a byte, `nnn` a
12-bit address, `n` a count of sprite rows. -/

namespace Sys2Proof

/-- The 34 instructions of R95. -/
inductive Instr where
  /-- 00E0 `CLS` (R213) -/
  | cls
  /-- 00EE `RET` (R141) -/
  | ret
  /-- 1nnn `JP nnn` (R142) -/
  | jp (nnn : BitVec 12)
  /-- 2nnn `CALL nnn` (R143) -/
  | call (nnn : BitVec 12)
  /-- 3xkk `SE Vx, kk` (R145) -/
  | seImm (x : Reg) (kk : Byte)
  /-- 4xkk `SNE Vx, kk` (R146) -/
  | sneImm (x : Reg) (kk : Byte)
  /-- 5xy0 `SE Vx, Vy` (R147) -/
  | seReg (x y : Reg)
  /-- 6xkk `LD Vx, kk` (R161) -/
  | ldImm (x : Reg) (kk : Byte)
  /-- 7xkk `ADD Vx, kk` (R162) -/
  | addImm (x : Reg) (kk : Byte)
  /-- 8xy0 `LD Vx, Vy` (R163) -/
  | ldReg (x y : Reg)
  /-- 8xy1 `OR Vx, Vy` (R164) -/
  | orReg (x y : Reg)
  /-- 8xy2 `AND Vx, Vy` (R165) -/
  | andReg (x y : Reg)
  /-- 8xy3 `XOR Vx, Vy` (R166) -/
  | xorReg (x y : Reg)
  /-- 8xy4 `ADD Vx, Vy` (R167) -/
  | addReg (x y : Reg)
  /-- 8xy5 `SUB Vx, Vy` (R168) -/
  | sub (x y : Reg)
  /-- 8xy6 `SHR Vx, Vy`; `y` is part of the word and ignored (R97, R169) -/
  | shr (x y : Reg)
  /-- 8xy7 `SUBN Vx, Vy` (R170) -/
  | subn (x y : Reg)
  /-- 8xyE `SHL Vx, Vy`; `y` is part of the word and ignored (R97, R171) -/
  | shl (x y : Reg)
  /-- 9xy0 `SNE Vx, Vy` (R148) -/
  | sneReg (x y : Reg)
  /-- Annn `LD I, nnn` (R190) -/
  | ldI (nnn : BitVec 12)
  /-- Bnnn `JP V0, nnn` (R144) -/
  | jpV0 (nnn : BitVec 12)
  /-- Cxkk `RND Vx, kk` (R172) -/
  | rnd (x : Reg) (kk : Byte)
  /-- Dxyn `DRW Vx, Vy, n` (R214) -/
  | drw (x y : Reg) (n : Nat)
  /-- Ex9E `SKP Vx` (R232) -/
  | skp (x : Reg)
  /-- ExA1 `SKNP Vx` (R233) -/
  | sknp (x : Reg)
  /-- Fx07 `LD Vx, DT` (R251) -/
  | ldVxDt (x : Reg)
  /-- Fx0A `LD Vx, K` (R234) -/
  | ldVxK (x : Reg)
  /-- Fx15 `LD DT, Vx` (R252) -/
  | ldDtVx (x : Reg)
  /-- Fx18 `LD ST, Vx` (R253) -/
  | ldStVx (x : Reg)
  /-- Fx1E `ADD I, Vx` (R191) -/
  | addIVx (x : Reg)
  /-- Fx29 `LD F, Vx` (R192) -/
  | ldFVx (x : Reg)
  /-- Fx33 `LD B, Vx` (R193) -/
  | ldBVx (x : Reg)
  /-- Fx55 `LD [I], Vx` (R194) -/
  | ldMemVx (x : Reg)
  /-- Fx65 `LD Vx, [I]` (R195) -/
  | ldVxMem (x : Reg)
  deriving DecidableEq, Repr

end Sys2Proof
end

