-- ==== Sys2Proof/Decode.lean ====
section
/-! DEFINITION. The decoder (spec/30_encoding.md R90 to R98), the encoder written from the same formats (R93) and
opcode map (R95), and the map itself as data. The decoder is total: an illegal word, or too few bytes, is rejected
by name. -/

namespace Sys2Proof

/-- Why the decoder gives no instruction. -/
inductive DecodeReject where
  /-- The word matches no row of R95 (R98); a step turns it into `DecodeError(w)`. -/
  | illegalWord (w : Word)
  /-- Fewer than the two bytes of an instruction (R90). -/
  | tooFewBytes (count : Nat)
  deriving DecidableEq, Repr

/-! ### Fields (R91) -/

/-- `op = w[15:12]`, the opcode family. -/
def fieldOp (w : Word) : BitVec 4 := w.extractLsb' 12 4

/-- `x = w[11:8]`. -/
def fieldX (w : Word) : Reg := (w.extractLsb' 8 4).toFin

/-- `y = w[7:4]`. -/
def fieldY (w : Word) : Reg := (w.extractLsb' 4 4).toFin

/-- `n = w[3:0]`. -/
def fieldN (w : Word) : BitVec 4 := w.extractLsb' 0 4

/-- `kk = w[7:0]`. -/
def fieldKk (w : Word) : Byte := w.extractLsb' 0 8

/-- `nnn = w[11:0]`. -/
def fieldNnn (w : Word) : BitVec 12 := w.extractLsb' 0 12

/-! ### Decoder (R94) -/

/-- Family 0x0: only the whole words 0x00E0 and 0x00EE are legal (R96). -/
def decodeFamily0 (w : Word) : Except DecodeReject Instr :=
  if w = 0x00E0#16 then .ok .cls
  else if w = 0x00EE#16 then .ok .ret
  else .error (.illegalWord w)

/-- Family 0x8: the low nibble is the sub-opcode (R94). -/
def decodeFamily8 (w : Word) : Except DecodeReject Instr :=
  let x := fieldX w
  let y := fieldY w
  let n := fieldN w
  if n = 0x0#4 then .ok (.ldReg x y)
  else if n = 0x1#4 then .ok (.orReg x y)
  else if n = 0x2#4 then .ok (.andReg x y)
  else if n = 0x3#4 then .ok (.xorReg x y)
  else if n = 0x4#4 then .ok (.addReg x y)
  else if n = 0x5#4 then .ok (.sub x y)
  else if n = 0x6#4 then .ok (.shr x y)
  else if n = 0x7#4 then .ok (.subn x y)
  else if n = 0xE#4 then .ok (.shl x y)
  else .error (.illegalWord w)

/-- Family 0xE: the low byte is the sub-opcode (R94). -/
def decodeFamilyE (w : Word) : Except DecodeReject Instr :=
  let x := fieldX w
  let kk := fieldKk w
  if kk = 0x9E#8 then .ok (.skp x)
  else if kk = 0xA1#8 then .ok (.sknp x)
  else .error (.illegalWord w)

/-- Family 0xF: the low byte is the sub-opcode (R94). -/
def decodeFamilyF (w : Word) : Except DecodeReject Instr :=
  let x := fieldX w
  let kk := fieldKk w
  if kk = 0x07#8 then .ok (.ldVxDt x)
  else if kk = 0x0A#8 then .ok (.ldVxK x)
  else if kk = 0x15#8 then .ok (.ldDtVx x)
  else if kk = 0x18#8 then .ok (.ldStVx x)
  else if kk = 0x1E#8 then .ok (.addIVx x)
  else if kk = 0x29#8 then .ok (.ldFVx x)
  else if kk = 0x33#8 then .ok (.ldBVx x)
  else if kk = 0x55#8 then .ok (.ldMemVx x)
  else if kk = 0x65#8 then .ok (.ldVxMem x)
  else .error (.illegalWord w)

/-- `decode(w)` of R94: dispatch by the opcode family, then by the sub-opcode where the family needs one. -/
def decode (w : Word) : Except DecodeReject Instr :=
  let op := fieldOp w
  let x := fieldX w
  let y := fieldY w
  let n := fieldN w
  let kk := fieldKk w
  let nnn := fieldNnn w
  if op = 0x0#4 then decodeFamily0 w
  else if op = 0x1#4 then .ok (.jp nnn)
  else if op = 0x2#4 then .ok (.call nnn)
  else if op = 0x3#4 then .ok (.seImm x kk)
  else if op = 0x4#4 then .ok (.sneImm x kk)
  else if op = 0x5#4 then (if n = 0x0#4 then .ok (.seReg x y) else .error (.illegalWord w))
  else if op = 0x6#4 then .ok (.ldImm x kk)
  else if op = 0x7#4 then .ok (.addImm x kk)
  else if op = 0x8#4 then decodeFamily8 w
  else if op = 0x9#4 then (if n = 0x0#4 then .ok (.sneReg x y) else .error (.illegalWord w))
  else if op = 0xA#4 then .ok (.ldI nnn)
  else if op = 0xB#4 then .ok (.jpV0 nnn)
  else if op = 0xC#4 then .ok (.rnd x kk)
  else if op = 0xD#4 then .ok (.drw x y n.toNat)
  else if op = 0xE#4 then decodeFamilyE w
  else decodeFamilyF w

/-- The big-endian instruction word of two bytes: the first is bits 15 to 8 (R65, R66, R90). -/
def wordOfBytes (hi lo : Byte) : Word := hi ++ lo

/-- The decoder on a byte stream: the instruction of the first two bytes and the bytes after them (R90). -/
def decodeBytes : List Byte → Except DecodeReject (Instr × List Byte)
  | hi :: lo :: rest =>
    match decode (wordOfBytes hi lo) with
    | .ok i => .ok (i, rest)
    | .error r => .error r
  | [_] => .error (.tooFewBytes 1)
  | [] => .error (.tooFewBytes 0)

/-! ### Encoder (R93, R95) -/

/-- Format A: `op`, `nnn`. -/
def formatA (op : BitVec 4) (nnn : BitVec 12) : Word := op ++ nnn

/-- Format XK: `op`, `x`, `kk`. -/
def formatXK (op : BitVec 4) (x : Reg) (kk : Byte) : Word := (op ++ BitVec.ofFin (w := 4) x) ++ kk

/-- Format XYS and format XYN: `op`, `x`, `y`, and the low nibble (a sub-opcode, or the count of DRW). -/
def formatXYN (op : BitVec 4) (x y : Reg) (n : BitVec 4) : Word :=
  ((op ++ BitVec.ofFin (w := 4) x) ++ BitVec.ofFin (w := 4) y) ++ n

/-- Format XS: `op`, `x`, and the sub-opcode byte. -/
def formatXS (op : BitVec 4) (x : Reg) (sub : Byte) : Word := (op ++ BitVec.ofFin (w := 4) x) ++ sub

/-- The word of an instruction (R93, R95); for a well-formed instruction no bit of an operand is lost. -/
def encode : Instr → Word
  | .cls => 0x00E0#16
  | .ret => 0x00EE#16
  | .jp nnn => formatA 0x1#4 nnn
  | .call nnn => formatA 0x2#4 nnn
  | .seImm x kk => formatXK 0x3#4 x kk
  | .sneImm x kk => formatXK 0x4#4 x kk
  | .seReg x y => formatXYN 0x5#4 x y 0x0#4
  | .ldImm x kk => formatXK 0x6#4 x kk
  | .addImm x kk => formatXK 0x7#4 x kk
  | .ldReg x y => formatXYN 0x8#4 x y 0x0#4
  | .orReg x y => formatXYN 0x8#4 x y 0x1#4
  | .andReg x y => formatXYN 0x8#4 x y 0x2#4
  | .xorReg x y => formatXYN 0x8#4 x y 0x3#4
  | .addReg x y => formatXYN 0x8#4 x y 0x4#4
  | .sub x y => formatXYN 0x8#4 x y 0x5#4
  | .shr x y => formatXYN 0x8#4 x y 0x6#4
  | .subn x y => formatXYN 0x8#4 x y 0x7#4
  | .shl x y => formatXYN 0x8#4 x y 0xE#4
  | .sneReg x y => formatXYN 0x9#4 x y 0x0#4
  | .ldI nnn => formatA 0xA#4 nnn
  | .jpV0 nnn => formatA 0xB#4 nnn
  | .rnd x kk => formatXK 0xC#4 x kk
  | .drw x y n => formatXYN 0xD#4 x y (BitVec.ofNat 4 n)
  | .skp x => formatXS 0xE#4 x 0x9E#8
  | .sknp x => formatXS 0xE#4 x 0xA1#8
  | .ldVxDt x => formatXS 0xF#4 x 0x07#8
  | .ldVxK x => formatXS 0xF#4 x 0x0A#8
  | .ldDtVx x => formatXS 0xF#4 x 0x15#8
  | .ldStVx x => formatXS 0xF#4 x 0x18#8
  | .addIVx x => formatXS 0xF#4 x 0x1E#8
  | .ldFVx x => formatXS 0xF#4 x 0x29#8
  | .ldBVx x => formatXS 0xF#4 x 0x33#8
  | .ldMemVx x => formatXS 0xF#4 x 0x55#8
  | .ldVxMem x => formatXS 0xF#4 x 0x65#8

/-- The first byte in memory of a word: bits 15 to 8 (R65). -/
def highByte (w : Word) : Byte := w.extractLsb' 8 8

/-- The second byte in memory of a word: bits 7 to 0 (R65). -/
def lowByte (w : Word) : Byte := w.extractLsb' 0 8

/-- The two bytes of a word as they stand in memory, big-endian (R65). -/
def bytesOfWord (w : Word) : List Byte := [highByte w, lowByte w]

/-! ### The opcode map as data (R95) -/

/-- One row of the opcode map: a word `w` matches it when `(w AND mask) = pattern`. -/
structure OpcodeRow where
  mnemonic : String
  pattern : Word
  mask : Word
  deriving DecidableEq, Repr

/-- A word matches a row (R95). -/
def OpcodeRow.matches (row : OpcodeRow) (w : Word) : Bool := (w &&& row.mask) == row.pattern

/-- Rows 1 to 9 of R95: families 0 to 7. -/
def opcodeRows0To7 : List OpcodeRow :=
  [⟨"CLS", 0x00E0, 0xFFFF⟩, ⟨"RET", 0x00EE, 0xFFFF⟩, ⟨"JP", 0x1000, 0xF000⟩,
   ⟨"CALL", 0x2000, 0xF000⟩, ⟨"SE_IMM", 0x3000, 0xF000⟩, ⟨"SNE_IMM", 0x4000, 0xF000⟩,
   ⟨"SE_REG", 0x5000, 0xF00F⟩, ⟨"LD_IMM", 0x6000, 0xF000⟩, ⟨"ADD_IMM", 0x7000, 0xF000⟩]

/-- Rows 10 to 18 of R95: family 8. -/
def opcodeRows8 : List OpcodeRow :=
  [⟨"LD_REG", 0x8000, 0xF00F⟩, ⟨"OR", 0x8001, 0xF00F⟩, ⟨"AND", 0x8002, 0xF00F⟩,
   ⟨"XOR", 0x8003, 0xF00F⟩, ⟨"ADD_REG", 0x8004, 0xF00F⟩, ⟨"SUB", 0x8005, 0xF00F⟩,
   ⟨"SHR", 0x8006, 0xF00F⟩, ⟨"SUBN", 0x8007, 0xF00F⟩, ⟨"SHL", 0x800E, 0xF00F⟩]

/-- Rows 19 to 25 of R95: families 9 to E. -/
def opcodeRows9ToE : List OpcodeRow :=
  [⟨"SNE_REG", 0x9000, 0xF00F⟩, ⟨"LD_I", 0xA000, 0xF000⟩, ⟨"JP_V0", 0xB000, 0xF000⟩,
   ⟨"RND", 0xC000, 0xF000⟩, ⟨"DRW", 0xD000, 0xF000⟩, ⟨"SKP", 0xE09E, 0xF0FF⟩,
   ⟨"SKNP", 0xE0A1, 0xF0FF⟩]

/-- Rows 26 to 34 of R95: family F. -/
def opcodeRowsF : List OpcodeRow :=
  [⟨"LD_VX_DT", 0xF007, 0xF0FF⟩, ⟨"LD_VX_K", 0xF00A, 0xF0FF⟩, ⟨"LD_DT_VX", 0xF015, 0xF0FF⟩,
   ⟨"LD_ST_VX", 0xF018, 0xF0FF⟩, ⟨"ADD_I_VX", 0xF01E, 0xF0FF⟩, ⟨"LD_F_VX", 0xF029, 0xF0FF⟩,
   ⟨"LD_B_VX", 0xF033, 0xF0FF⟩, ⟨"LD_MEM_VX", 0xF055, 0xF0FF⟩, ⟨"LD_VX_MEM", 0xF065, 0xF0FF⟩]

/-- The 34 rows of R95, in the table's order. -/
def opcodeRows : List OpcodeRow := opcodeRows0To7 ++ opcodeRows8 ++ opcodeRows9ToE ++ opcodeRowsF

/-- The name R95 gives an instruction. -/
def Instr.mnemonic : Instr → String
  | .cls => "CLS"
  | .ret => "RET"
  | .jp _ => "JP"
  | .call _ => "CALL"
  | .seImm _ _ => "SE_IMM"
  | .sneImm _ _ => "SNE_IMM"
  | .seReg _ _ => "SE_REG"
  | .ldImm _ _ => "LD_IMM"
  | .addImm _ _ => "ADD_IMM"
  | .ldReg _ _ => "LD_REG"
  | .orReg _ _ => "OR"
  | .andReg _ _ => "AND"
  | .xorReg _ _ => "XOR"
  | .addReg _ _ => "ADD_REG"
  | .sub _ _ => "SUB"
  | .shr _ _ => "SHR"
  | .subn _ _ => "SUBN"
  | .shl _ _ => "SHL"
  | .sneReg _ _ => "SNE_REG"
  | .ldI _ => "LD_I"
  | .jpV0 _ => "JP_V0"
  | .rnd _ _ => "RND"
  | .drw _ _ _ => "DRW"
  | .skp _ => "SKP"
  | .sknp _ => "SKNP"
  | .ldVxDt _ => "LD_VX_DT"
  | .ldVxK _ => "LD_VX_K"
  | .ldDtVx _ => "LD_DT_VX"
  | .ldStVx _ => "LD_ST_VX"
  | .addIVx _ => "ADD_I_VX"
  | .ldFVx _ => "LD_F_VX"
  | .ldBVx _ => "LD_B_VX"
  | .ldMemVx _ => "LD_MEM_VX"
  | .ldVxMem _ => "LD_VX_MEM"

/-! ### Assembler text (R101) -/

/-- One hexadecimal digit. -/
def hexDigit (n : Nat) : String :=
  ["0", "1", "2", "3", "4", "5", "6", "7", "8", "9", "A", "B", "C", "D", "E", "F"].getD (n % 16) "0"

/-- "`V0` to `VF` with the register number as one hexadecimal digit". -/
def regText (x : Reg) : String := "V" ++ hexDigit x.val

/-- An 8-bit number. Log 15. -/
def byteText (kk : Byte) : String := "0x" ++ hexDigit (kk.toNat / 16) ++ hexDigit kk.toNat

/-- A 12-bit address. Log 15. -/
def addrText (nnn : BitVec 12) : String :=
  "0x" ++ hexDigit (nnn.toNat / 256) ++ hexDigit (nnn.toNat / 16) ++ hexDigit nnn.toNat

/-- Two operands. -/
def pairText (a b : String) : String := a ++ ", " ++ b

/-- An instruction in the `syntax` column of R95, as R101 writes the operands; SHR and SHL with their ignored `Vy`. -/
def Instr.text : Instr → String
  | .cls => "CLS"
  | .ret => "RET"
  | .jp nnn => "JP " ++ addrText nnn
  | .call nnn => "CALL " ++ addrText nnn
  | .seImm x kk => "SE " ++ pairText (regText x) (byteText kk)
  | .sneImm x kk => "SNE " ++ pairText (regText x) (byteText kk)
  | .seReg x y => "SE " ++ pairText (regText x) (regText y)
  | .ldImm x kk => "LD " ++ pairText (regText x) (byteText kk)
  | .addImm x kk => "ADD " ++ pairText (regText x) (byteText kk)
  | .ldReg x y => "LD " ++ pairText (regText x) (regText y)
  | .orReg x y => "OR " ++ pairText (regText x) (regText y)
  | .andReg x y => "AND " ++ pairText (regText x) (regText y)
  | .xorReg x y => "XOR " ++ pairText (regText x) (regText y)
  | .addReg x y => "ADD " ++ pairText (regText x) (regText y)
  | .sub x y => "SUB " ++ pairText (regText x) (regText y)
  | .shr x y => "SHR " ++ pairText (regText x) (regText y)
  | .subn x y => "SUBN " ++ pairText (regText x) (regText y)
  | .shl x y => "SHL " ++ pairText (regText x) (regText y)
  | .sneReg x y => "SNE " ++ pairText (regText x) (regText y)
  | .ldI nnn => "LD " ++ pairText "I" (addrText nnn)
  | .jpV0 nnn => "JP " ++ pairText "V0" (addrText nnn)
  | .rnd x kk => "RND " ++ pairText (regText x) (byteText kk)
  | .drw x y n => "DRW " ++ pairText (pairText (regText x) (regText y)) (toString n)
  | .skp x => "SKP " ++ regText x
  | .sknp x => "SKNP " ++ regText x
  | .ldVxDt x => "LD " ++ pairText (regText x) "DT"
  | .ldVxK x => "LD " ++ pairText (regText x) "K"
  | .ldDtVx x => "LD " ++ pairText "DT" (regText x)
  | .ldStVx x => "LD " ++ pairText "ST" (regText x)
  | .addIVx x => "ADD " ++ pairText "I" (regText x)
  | .ldFVx x => "LD " ++ pairText "F" (regText x)
  | .ldBVx x => "LD " ++ pairText "B" (regText x)
  | .ldMemVx x => "LD " ++ pairText "[I]" (regText x)
  | .ldVxMem x => "LD " ++ pairText (regText x) "[I]"

/-! ### The host's numbering of an instruction's bits -/

/-- The bytes in memory of the table word whose bits are `w`, bit 0 the least significant bit of the one 16-bit
word; bits at or above `nbits` are 0. Log 14. -/
def tableBytes (nbits w : Nat) : List Byte := bytesOfWord (BitVec.ofNat 16 (w % 2 ^ nbits))

/-- The instruction the decoder reads from the table word whose bits are `w`. -/
def decodeTableWord (nbits w : Nat) : Option Instr :=
  match decodeBytes (tableBytes nbits w) with
  | .ok (i, _) => some i
  | .error _ => none

end Sys2Proof
end

