-- ==== Sys2Proof/Config.lean ====
section
/-! DEFINITION. The implementation parameters of the CORE (spec/00_scope.md R4): the fixed ones as numbers, and
the two the spec leaves OPEN as constants with no body (spec/92_eei_decisions.md D28, D29). -/

namespace Sys2Proof.Config

/-- `MEM_SIZE`: 4096 bytes, addresses 0x000 to 0xFFF (R4, R60). -/
def memSize : Nat := 4096

/-- The font occupies addresses 0x000 to 0x04F (R4, R61). -/
def fontSize : Nat := 80

/-- `ROM_BASE`: the program is loaded at, and entered at, 0x200 (R4, R61, R301). -/
def romBase : Nat := 0x200

/-- `ROM_MAX`: 4096 − 0x200 = 3584 bytes (R4, R300). -/
def romMax : Nat := memSize - romBase

/-- `FONT`: byte `i` of the font table, 0 ≤ i < 80, glyph d at bytes 5d to 5d+4. OPEN in the spec (R4, R38, D28),
so it has no body: a statement holds for every font. Log 2. -/
opaque font : Nat → Byte

/-- `RandByte()`: the byte the `n`-th draw of RND gives. OPEN in the spec (R4, R38, R172, D29), under no law, so it
has no body: a statement holds for every random source. Log 3. -/
opaque randByte : Nat → Byte

end Sys2Proof.Config
end

