-- ==== Sys2Proof/Machine/State.lean ====
section
/-! DEFINITION. The state tuple of the CORE (spec/10_state.md R20), the reasons a step can stop
(spec/60_exceptions.md R270, R271), and the state after reset (R39, R300). -/

namespace Sys2Proof.Machine

/-- The keypad wait latch: "Model as a three-state machine — `Idle`, `Waiting`, `Resolved(key)`" (R34). -/
inductive Latch where
  /-- no wait in progress -/
  | idle
  /-- LD_VX_K has begun a wait and no key has been released since -/
  | waiting
  /-- key `k` was released while waiting and LD_VX_K has not yet taken it -/
  | resolved (k : Fin 16)
  deriving DecidableEq, Repr

/-- Memory as (address, byte) cells in one canonical form: addresses strictly rising, all below 4096, and no cell
equal to what an unlisted address reads as (Machine/Ops.lean `memoryWf`). Log 4. -/
abbrev Memory := List Host.Cell

/-- The framebuffer, 32 rows of 64 pixels, true = lit: pixel (x, y) is element x of row y, so the rows one after the
other are the row-major order of R210 (R32). -/
abbrev Framebuffer := Vector (Vector Bool 64) 32

/-- The state of the CORE: "the tuple below, and nothing else", exactly the fields of R20. -/
structure CoreState where
  /-- V0 to VF, 8 bits each (R21); VF, index 15, is the flag register (R23) -/
  v : Vector Byte 16
  /-- `I`, the 16-bit index register (R26) -/
  i : Word
  /-- `pc`, the 16-bit program counter (R25) -/
  pc : Word
  /-- `sp`, the number of occupied call-stack slots, 0 to 16, in 8 bits (R28) -/
  sp : BitVec 8
  /-- the 16 call-stack slots of 16 bits (R27) -/
  stack : Vector Word 16
  /-- `DT`, the 8-bit delay timer (R29) -/
  dt : Byte
  /-- `ST`, the 8-bit sound timer (R30) -/
  st : Byte
  /-- `Mem`, 4096 bytes (R31, R60) -/
  mem : Memory
  /-- `FB`, the 64 × 32 framebuffer (R32) -/
  fb : Framebuffer
  /-- `K`, the level state of the 16 keys, true = pressed (R33) -/
  keys : Vector Bool 16
  /-- `latch`, the keypad wait latch (R34) -/
  latch : Latch
  deriving DecidableEq, Repr

/-- The state of the CORE (R20) and, beside it, the place in the random input. The spec has `RandByte` outside the
tuple (R38), "a free 8-bit input of each RND step" (D29); a step here takes no input, so what it will draw is given
with the state it starts from. -/
structure State extends CoreState where
  /-- the MODEL'S OWN, no part of R20's tuple: how many random bytes RND has drawn, so that each draw is a fresh value
  of the free `Config.randByte` (R172, D29). No instruction but RND reads or writes it, and no statement rests on its
  value. Log 3. -/
  draws : Nat
  deriving DecidableEq, Repr

/-- Why a step (or a load) stops: the errors of R270, each with its information, those of a step with the `pc` of the
instruction too. An error leaves the state as it was before the step (R127, R273), so a fault carries no state. -/
inductive Fault where
  /-- R270 code 0: raised by the host's `load` of a ROM of more than 3584 bytes (R277); never by a step.
  Safe: the spec gives exactly this. -/
  | loadError (len : Nat)
  /-- R270 code 1: raised by the decode phase on an illegal word (R98, R128). Safe: the spec gives exactly this. -/
  | decodeError (w : Word) (pc : Word)
  /-- R270 code 2: raised by CALL when `sp = 16` (R143). Safe: the spec gives exactly this. -/
  | stackOverflow (pc : Word)
  /-- R270 code 3: raised by RET when `sp = 0` (R141). Safe: the spec gives exactly this. -/
  | stackUnderflow (pc : Word)
  /-- R270 code 4: raised by the fetch (R66) and by DRW, LD_B_VX, LD_MEM_VX and LD_VX_MEM (R79), with the lowest
  address out of memory. Safe: the spec gives exactly this. -/
  | addressError (addr : Nat) (pc : Word)
  /-- R270 code 5: raised by SKP and SKNP when `V[x] > 15` (R232, R233). Safe: the spec gives exactly this. -/
  | invalidKey (value : Byte) (pc : Word)
  /-- The MODEL'S OWN: raised by CALL and RET when `sp > 16`, where no slot exists. R28 says that no run reaches such
  a state. Safe: the model stops where the spec gives no behaviour. Log 6. -/
  | stackPointerIllegal (sp : BitVec 8) (pc : Word)
  deriving DecidableEq, Repr

/-- What the model gives no move. -/
inductive Refusal where
  /-- An instruction without a meaning; no arm of `exec` answers it, since every instruction has its meaning. Safe. -/
  | notModelled (mnemonic : String)
  /-- A host key event with an index above 15: "not an operation of the core; a model gives it no move" (R230, R231,
  D24). Raised by the host operations only, never by a step. Safe. -/
  | keyIndexOutOfRange (k : Nat)
  /-- A host pixel read outside the 64 × 32 framebuffer (R216, D24). Raised by the host operations only. Safe. -/
  | pixelOutOfRange (x y : Nat)
  deriving DecidableEq, Repr

/-- What a meaning answers. -/
abbrev Result := Host.Outcome State Fault Refusal

/-- Every pixel unlit (R211, D5). -/
def Framebuffer.clear : Framebuffer := Vector.replicate 32 (Vector.replicate 64 false)

/-- The state right after reset: `load` of an empty ROM (R39, R300), every field at the value R39 states; a program
is loaded from outside (log 1). The value of `draws` is the model's choice (log 3). -/
def State.reset : State where
  v := Vector.replicate 16 0x00#8
  i := 0x0000#16
  pc := 0x200#16
  sp := 0#8
  stack := Vector.replicate 16 0x0000#16
  dt := 0x00#8
  st := 0x00#8
  mem := []
  fb := Framebuffer.clear
  keys := Vector.replicate 16 false
  latch := .idle
  draws := 0

end Sys2Proof.Machine
end

