-- ==== Sys2Proof/Machine/Operands.lean ====
section
/-! DEFINITION. The operand forms of the CORE: narrowing and extending (spec/00_scope.md R7), the register operand,
the 12-bit address, the font address (spec/43_index_memory.md R192), the decimal digits (R193), and the effective
addresses `I + k` (spec/20_memory.md R69). -/

namespace Sys2Proof.Machine

/-- `trunc_8(v) = v mod 2^8`, also for a negative `v` (R7). -/
def trunc8 (v : Int) : Byte := BitVec.ofInt 8 v

/-- `trunc_16(v) = v mod 2^16` (R7). -/
def trunc16 (v : Int) : Word := BitVec.ofInt 16 v

/-- `zext_16(nnn)` of a 12-bit address (R7, R92). -/
def zextAddr (nnn : BitVec 12) : Word := nnn.setWidth 16

/-- `zext_16` of a register's byte (R7). -/
def zextByte (b : Byte) : Word := b.setWidth 16

/-- `zext_8(k)` of a key index (R234). -/
def zextKey (k : Fin 16) : Byte := BitVec.ofNat 8 k.val

/-- The general register VF (R23). -/
def regVF : Reg := 15

/-- The general register V0, read implicitly by JP_V0 (R144). -/
def regV0 : Reg := 0

/-- `V[x]` (R8, R21): the register operand. -/
def State.reg (s : State) (x : Reg) : Byte := s.v[x.val]

/-- The registers `V[0], …, V[x]` in order, the operand of LD_MEM_VX (R194). -/
def State.regsUpTo (s : State) (x : Reg) : List Byte := s.v.toList.take (x.val + 1)

/-- `I` as an unbounded address, the base of every data access: the access k is at `I + k`, not reduced (R69, R196). -/
def State.addrI (s : State) : Nat := s.i.toNat

/-- `I + V[x]` narrowed to 16 bits (R191). -/
def indexSum (i : Word) (v : Byte) : Word := trunc16 ((i.toNat : Int) + v.toNat)

/-- The address of the font glyph of a digit: `zext_16(V[x]) × 5`, exact, not masked (R192). -/
def fontAddress (v : Byte) : Word := trunc16 ((v.toNat : Int) * 5)

/-- The target of JP_V0: `zext_16(nnn) + V[0]`, exact, at most 0x10FE (R144). -/
def jumpV0Target (nnn : BitVec 12) (v0 : Byte) : Word := trunc16 ((nnn.toNat : Int) + v0.toNat)

/-- The decimal digits of a byte: hundreds, tens, ones (R193). -/
def bcdDigits (v : Byte) : List Byte :=
  [BitVec.ofNat 8 (v.toNat / 100), BitVec.ofNat 8 (v.toNat / 10 % 10), BitVec.ofNat 8 (v.toNat % 10)]

/-- The key a register names, if it names one: "keys are indexed 0x0 to 0xF" (R232, R233, D15). -/
def keyOfByte (v : Byte) : Option (Fin 16) := if h : v.toNat < 16 then some ⟨v.toNat, h⟩ else none

end Sys2Proof.Machine
end

