-- ==== Sys2Proof/Machine/Flags.lean ====
section
/-! DEFINITION. The results and flags of the flag-writing instructions (spec/42_alu.md R160, R167 to R171, R173): the
exact result is computed on integers, narrowed, and the flag is read off the exact values. VF is the only flag
(spec/10_state.md R24) and is written 0 or 1 only (R23). -/

namespace Sys2Proof.Machine

/-- The byte a flag-writing instruction writes to VF (R23). -/
def flagByte (b : Bool) : Byte := if b then 1#8 else 0#8

/-- `trunc_8(a + b)` (R162, R167). -/
def addResult (a b : Byte) : Byte := trunc8 ((a.toNat : Int) + b.toNat)

/-- The carry: the exact sum exceeds 255 (R167). -/
def carryOut (a b : Byte) : Bool := decide (a.toNat + b.toNat > 255)

/-- `trunc_8(a − b)` (R168, R170). -/
def subResult (a b : Byte) : Byte := trunc8 ((a.toNat : Int) - b.toNat)

/-- The no-borrow flag: minuend strictly greater than subtrahend (R168, R170; 93 I6). -/
def noBorrow (a b : Byte) : Bool := decide (a.toNat > b.toNat)

/-- `a >> 1`, logical (R169). -/
def shrResult (a : Byte) : Byte := a >>> 1

/-- The bit shifted out on the right: `a[0]` (R169). -/
def shrOut (a : Byte) : Bool := a.getLsbD 0

/-- `trunc_8(a × 2)` (R171). -/
def shlResult (a : Byte) : Byte := trunc8 ((a.toNat : Int) * 2)

/-- The bit shifted out on the left: `a[7]` (R171). -/
def shlOut (a : Byte) : Bool := a.getLsbD 7

end Sys2Proof.Machine
end

