-- ==== Sys2Proof/Machine/Ops.lean ====
section
/-! DEFINITION. The named operations over memory, registers, stack and timers (spec/00_scope.md R8), the range check
(spec/20_memory.md R79), the fetch and decode phases (spec/40_engine_cycle.md R121 to R123), and raising an error.
The CORE has no exception entry and no return from exception: an error is reported and changes nothing
(spec/60_exceptions.md R273, R274), so raising one is the whole of it. -/

namespace Sys2Proof.Machine

/-! ### Memory -/

/-- What an address that no store has changed reads as: the font at 0x000 to 0x04F and 0x00 from 0x050 up (R39, R61,
D4, D28). Log 4. -/
def unlistedByte (a : Nat) : Byte := if a < Config.fontSize then Config.font a else 0x00#8

/-- The byte at an address below 4096 (R60). -/
def memGet : Memory → Nat → Byte
  | [], a => unlistedByte a
  | (b, v) :: m, a => if a < b then unlistedByte a else if a = b then v else memGet m a

/-- One cell before a memory whose addresses are greater, unless it holds what an unlisted address reads as. -/
def memCons (a : Nat) (v : Byte) (m : Memory) : Memory := if v = unlistedByte a then m else (a, v) :: m

/-- Store a byte at an address, keeping the canonical form. -/
def memSet : Memory → Nat → Byte → Memory
  | [], a, v => memCons a v []
  | (b, u) :: m, a, v =>
    if a < b then memCons a v ((b, u) :: m)
    else if a = b then memCons a v m
    else (b, u) :: memSet m a v

/-- The canonical form above an address: rising from `lo`, below 4096, and no cell that an unlisted read would give. -/
def memWfFrom : Nat → Memory → Bool
  | _, [] => true
  | lo, (a, v) :: m =>
    decide (lo ≤ a) && decide (a < Config.memSize) && decide (v ≠ unlistedByte a) && memWfFrom (a + 1) m

/-- The canonical form of memory. Log 4. -/
def memoryWf (m : Memory) : Bool := memWfFrom 0 m

/-- Store consecutive bytes from an address up, in ascending order (R65). -/
def memStore : Memory → Nat → List Byte → Memory
  | m, _, [] => m
  | m, a, b :: bs => memStore (memSet m a b) (a + 1) bs

/-- Read `n` consecutive bytes from an address up, in ascending order (R65). -/
def memLoad (m : Memory) : Nat → Nat → List Byte
  | _, 0 => []
  | a, n + 1 => memGet m a :: memLoad m (a + 1) n

/-- Store consecutive bytes from an address up, leaving out those at or above 4096. -/
def memPlace : Memory → Nat → List Byte → Memory
  | m, _, [] => m
  | m, a, b :: bs => memPlace (if a < Config.memSize then memSet m a b else m) (a + 1) bs

/-- The byte memory holds at `a` (R60), for statements about memory. -/
def State.byte (s : State) (a : Nat) : Byte := memGet s.mem a

/-- `AddressError(addr)` at this state's `pc` (R270). -/
def addressFault (s : State) (addr : Nat) : Fault := .addressError addr s.pc

/-- `MemRead(a, 1)`: raises `AddressError(a)` when `a ≥ 4096` (R63). -/
def memRead (s : State) (a : Nat) : Except Fault Byte :=
  if a ≥ Config.memSize then .error (addressFault s a) else .ok (memGet s.mem a)

/-- `CheckRange(a, count)` fails: `count > 0` and `a + count − 1 ≥ 4096` (R79). -/
def rangeFails (a count : Nat) : Bool := decide (count > 0) && decide (a + count - 1 ≥ Config.memSize)

/-- Run `k` if `CheckRange(a, count)` passes; else raise `AddressError(max(a, 4096))` (R79). -/
def withRange (s : State) (a count : Nat) (k : Result) : Result :=
  if rangeFails a count then .fault (addressFault s (max a Config.memSize)) else k

/-! ### Registers -/

/-- `V[x] <- b` (R8). -/
def State.setReg (s : State) (x : Reg) (b : Byte) : State := { s with v := s.v.set x.val b }

/-- `V[x] <- b` and then `V[0xF] <- flag`: the result first, the flag second (R160, D13). -/
def State.setRegFlag (s : State) (x : Reg) (b : Byte) (flag : Bool) : State :=
  (s.setReg x b).setReg regVF (flagByte flag)

/-- Write consecutive registers from index `r` up, in ascending order (R195). -/
def loadRegs : Vector Byte 16 → Nat → List Byte → Vector Byte 16
  | v, _, [] => v
  | v, r, b :: bs => loadRegs (v.setIfInBounds r b) (r + 1) bs

/-- `V[0], V[1], … <- bs` (R195). -/
def State.setRegsFrom0 (s : State) (bs : List Byte) : State := { s with v := loadRegs s.v 0 bs }

/-- `I <- w` (R8). -/
def State.setI (s : State) (w : Word) : State := { s with i := w }

/-- `pc <- w` (R8). -/
def State.setPc (s : State) (w : Word) : State := { s with pc := w }

/-- `pc <- pc + 2`, the advance of every instruction that does not set `pc` itself (R124). Log 7. -/
def State.advance (s : State) : State := s.setPc (s.pc + 2#16)

/-- The skips: `pc <- pc + 4` if the condition holds, else `pc <- pc + 2` (R124). Log 7. -/
def State.skipIf (s : State) (c : Bool) : State := s.setPc (if c then s.pc + 4#16 else s.pc + 2#16)

/-- `DT <- b` (R8). -/
def State.setDt (s : State) (b : Byte) : State := { s with dt := b }

/-- `ST <- b` (R8). -/
def State.setSt (s : State) (b : Byte) : State := { s with st := b }

/-- Replace memory. -/
def State.setMem (s : State) (m : Memory) : State := { s with mem := m }

/-- Replace the framebuffer. -/
def State.setFb (s : State) (f : Framebuffer) : State := { s with fb := f }

/-- `K[k] <- b` (R8). -/
def State.setKey (s : State) (k : Fin 16) (b : Bool) : State := { s with keys := s.keys.set k.val b }

/-- `latch <- l` (R8). -/
def State.setLatch (s : State) (l : Latch) : State := { s with latch := l }

/-- Count one random draw: the next draw is another free value (R172, log 3). -/
def State.countDraw (s : State) : State := { s with draws := s.draws + 1 }

/-- `K[k]` (R8). -/
def State.key (s : State) (k : Fin 16) : Bool := s.keys[k.val]

/-! ### Call stack (R140) -/

/-- The state after a push: `stack[sp] <- ret`, `sp <- sp + 1`, `pc <- target`, for `sp < 16`. -/
def State.push (s : State) (h : s.sp.toNat < 16) (ret target : Word) : State :=
  { s with stack := s.stack.set s.sp.toNat ret, sp := s.sp + 1#8, pc := target }

/-- `push_return(ret, target)`: raises `StackOverflow` when `sp = 16` (R140); above 16 no slot exists (log 6). -/
def pushReturn (s : State) (ret target : Word) : Result :=
  if h : s.sp.toNat < 16 then .next (s.push h ret target)
  else if s.sp = 16#8 then .fault (.stackOverflow s.pc)
  else .fault (.stackPointerIllegal s.sp s.pc)

/-- The state after a pop: `sp <- sp − 1`, `pc <- stack[sp]`; the slot keeps its value. -/
def State.pop (s : State) (h : s.sp.toNat - 1 < 16) : State :=
  { s with sp := s.sp - 1#8, pc := s.stack[s.sp.toNat - 1] }

/-- `pop_return()`: raises `StackUnderflow` when `sp = 0` (R140); above 16 no slot exists (log 6). -/
def popReturn (s : State) : Result :=
  if s.sp = 0#8 then .fault (.stackUnderflow s.pc)
  else if h : s.sp.toNat - 1 < 16 then .next (s.pop h)
  else .fault (.stackPointerIllegal s.sp s.pc)

/-! ### Timer phase (R121, R250) -/

/-- One timer: down by one, not below 0 (R121). -/
def decTimer (t : Byte) : Byte := if t.toNat > 0 then t - 1#8 else 0#8

/-- `tick()`: the first phase of every step (R121, R250). -/
def State.tick (s : State) : State := { s with dt := decTimer s.dt, st := decTimer s.st }

/-! ### Fetch and decode phases (R122, R123) -/

/-- `Fetch(pc)`: two bytes, big-endian, `pc + 1` without wrap (R66, R122). -/
def fetch (s : State) : Except Fault Word :=
  match memRead s s.pc.toNat with
  | .error f => .error f
  | .ok hi =>
    match memRead s (s.pc.toNat + 1) with
    | .error f => .error f
    | .ok lo => .ok (wordOfBytes hi lo)

/-- Fetch, then decode; an illegal word raises `DecodeError(w)` with the `pc` it was fetched from (R123, R128). The
fetch's error comes first (R272). -/
def fetchInstr (s : State) : Except Fault Instr :=
  match fetch s with
  | .error f => .error f
  | .ok w =>
    match decode w with
    | .ok i => .ok i
    | .error _ => .error (.decodeError w s.pc)

/-- Place an instruction's bytes where the next step fetches: at `pc` (R66). Log 1, log 13. -/
def State.placeAtPc (s : State) (bs : List Byte) : State := s.setMem (memPlace s.mem s.pc.toNat bs)

end Sys2Proof.Machine
end

