-- ==== Sys2Proof/Machine/Alu.lean ====
section
/-! DEFINITION. ALU and register instructions (spec/42_alu.md). Operands are read before anything is written, the
result is written before the flag, and every instruction ends with `pc <- pc + 2` (R160). None raises an error. -/

namespace Sys2Proof.Machine

/-- LD Vx, kk (R161). -/
def execLdImm (x : Reg) (kk : Byte) (s : State) : Result := .next (s.setReg x kk).advance

/-- ADD Vx, kk (R162): wraps at 8 bits, no flag. -/
def execAddImm (x : Reg) (kk : Byte) (s : State) : Result := .next (s.setReg x (addResult (s.reg x) kk)).advance

/-- LD Vx, Vy (R163). -/
def execLdReg (x y : Reg) (s : State) : Result := .next (s.setReg x (s.reg y)).advance

/-- OR Vx, Vy (R164). -/
def execOr (x y : Reg) (s : State) : Result := .next (s.setReg x (s.reg x ||| s.reg y)).advance

/-- AND Vx, Vy (R165). -/
def execAnd (x y : Reg) (s : State) : Result := .next (s.setReg x (s.reg x &&& s.reg y)).advance

/-- XOR Vx, Vy (R166). -/
def execXor (x y : Reg) (s : State) : Result := .next (s.setReg x (s.reg x ^^^ s.reg y)).advance

/-- ADD Vx, Vy (R167): VF is the carry. -/
def execAddReg (x y : Reg) (s : State) : Result :=
  .next (s.setRegFlag x (addResult (s.reg x) (s.reg y)) (carryOut (s.reg x) (s.reg y))).advance

/-- SUB Vx, Vy (R168): VF is 1 when `V[x] > V[y]`, strictly. -/
def execSub (x y : Reg) (s : State) : Result :=
  .next (s.setRegFlag x (subResult (s.reg x) (s.reg y)) (noBorrow (s.reg x) (s.reg y))).advance

/-- SHR Vx (R169): VF is the old bit 0; the `y` field is ignored. -/
def execShr (x _y : Reg) (s : State) : Result :=
  .next (s.setRegFlag x (shrResult (s.reg x)) (shrOut (s.reg x))).advance

/-- SUBN Vx, Vy (R170): VF is 1 when `V[y] > V[x]`, strictly. -/
def execSubn (x y : Reg) (s : State) : Result :=
  .next (s.setRegFlag x (subResult (s.reg y) (s.reg x)) (noBorrow (s.reg y) (s.reg x))).advance

/-- SHL Vx (R171): VF is the old bit 7; the `y` field is ignored. -/
def execShl (x _y : Reg) (s : State) : Result :=
  .next (s.setRegFlag x (shlResult (s.reg x)) (shlOut (s.reg x))).advance

/-- What RND writes when the byte drawn is `r`: `V[x] <- r AND kk` (R172). -/
def State.setMasked (s : State) (x : Reg) (r kk : Byte) : State := s.setReg x (r &&& kk)

/-- RND Vx, kk (R172): a fresh free byte masked by `kk`; the draw is counted so that the next one is fresh. Log 3. -/
def execRnd (x : Reg) (kk : Byte) (s : State) : Result :=
  .next ((s.setMasked x (Config.randByte s.draws) kk).countDraw).advance

end Sys2Proof.Machine
end

