-- ==== Sys2Proof/Machine/ControlFlow.lean ====
section
/-! DEFINITION. Control flow (spec/41_control_flow.md): RET, JP, CALL, JP_V0 and the skips on registers. -/

namespace Sys2Proof.Machine

/-- RET (R141): `pop_return()`, with no further advance. -/
def execRet (s : State) : Result := popReturn s

/-- JP nnn (R142): `pc <- zext_16(nnn)`; the target is not checked. -/
def execJp (nnn : BitVec 12) (s : State) : Result := .next (s.setPc (zextAddr nnn))

/-- CALL nnn (R143): `push_return(pc + 2, zext_16(nnn))`. -/
def execCall (nnn : BitVec 12) (s : State) : Result := pushReturn s (s.pc + 2#16) (zextAddr nnn)

/-- JP V0, nnn (R144): `pc <- zext_16(nnn) + V[0]`, exact. -/
def execJpV0 (nnn : BitVec 12) (s : State) : Result := .next (s.setPc (jumpV0Target nnn (s.reg regV0)))

/-- SE Vx, kk (R145). -/
def execSeImm (x : Reg) (kk : Byte) (s : State) : Result := .next (s.skipIf (s.reg x == kk))

/-- SNE Vx, kk (R146). -/
def execSneImm (x : Reg) (kk : Byte) (s : State) : Result := .next (s.skipIf (s.reg x != kk))

/-- SE Vx, Vy (R147). -/
def execSeReg (x y : Reg) (s : State) : Result := .next (s.skipIf (s.reg x == s.reg y))

/-- SNE Vx, Vy (R148). -/
def execSneReg (x y : Reg) (s : State) : Result := .next (s.skipIf (s.reg x != s.reg y))

end Sys2Proof.Machine
end

