-- ==== Sys2Proof/Machine/Display.lean ====
section
/-! DEFINITION. Framebuffer and display instructions (spec/44_display.md): the clear and sprite primitives (R211, R212)
and CLS, DRW. -/

namespace Sys2Proof.Machine

/-- `FB[x][y]` (R8, R210). -/
def getPixel (f : Framebuffer) (x : Fin 64) (y : Fin 32) : Bool := (f[y.val])[x.val]

/-- `FB[x][y] <- b` (R8, R210). -/
def setPixel (f : Framebuffer) (x : Fin 64) (y : Fin 32) (b : Bool) : Framebuffer :=
  f.set y.val ((f[y.val]).set x.val b)

/-- A framebuffer and the collision result so far. -/
abbrev Drawing := Framebuffer × Bool

/-- One sprite bit at row `r`, column `c` (R212): a 1 inverts the pixel at ((x0 + c) mod 64, (y0 + r) mod 32) and
reports a collision if it was lit; a 0 leaves it unchanged. -/
def drawBit (x0 y0 r c : Nat) (bit : Bool) (d : Drawing) : Drawing :=
  let px := Fin.ofNat 64 (x0 + c)
  let py := Fin.ofNat 32 (y0 + r)
  if bit then (setPixel d.1 px py (!getPixel d.1 px py), d.2 || getPixel d.1 px py) else d

/-- One sprite row: column c is bit 7 − c, most significant bit first (R212). -/
def drawRow (x0 y0 r : Nat) (row : Byte) (d : Drawing) : Drawing :=
  (List.range 8).foldl (fun d c => drawBit x0 y0 r c (row.getLsbD (7 - c)) d) d

/-- The sprite rows from row `r` on (R212). -/
def drawRows (x0 y0 : Nat) : Nat → List Byte → Drawing → Drawing
  | _, [], d => d
  | r, row :: rows, d => drawRows x0 y0 (r + 1) rows (drawRow x0 y0 r row d)

/-- `draw_sprite(x0, y0, rows)`: the new framebuffer and the collision result (R212). -/
def drawSprite (f : Framebuffer) (x0 y0 : Byte) (rows : List Byte) : Drawing :=
  drawRows x0.toNat y0.toNat 0 rows (f, false)

/-- CLS (R213): `clear()`, VF not written. -/
def execCls (s : State) : Result := .next (s.setFb Framebuffer.clear).advance

/-- The state after the sprite is drawn: the framebuffer and the collision flag (R214). -/
def State.afterDraw (s : State) (d : Drawing) : State := (s.setFb d.1).setReg regVF (flagByte d.2)

/-- DRW Vx, Vy, n (R214): the coordinates are read before VF is written; with n = 0 nothing is read or drawn and VF
is 0 (D17). -/
def execDrw (x y : Reg) (n : Nat) (s : State) : Result :=
  withRange s s.addrI n
    (.next (s.afterDraw (drawSprite s.fb (s.reg x) (s.reg y) (memLoad s.mem s.addrI n))).advance)

end Sys2Proof.Machine
end

