-- ==== Sys2Proof/Machine/IndexMemory.lean ====
section
/-! DEFINITION. Index register and memory instructions (spec/43_index_memory.md). The range of a multi-byte access is
checked before any access takes effect (spec/20_memory.md R70, R79); `I` is not changed by an access (R196). -/

namespace Sys2Proof.Machine

/-- LD I, nnn (R190). -/
def execLdI (nnn : BitVec 12) (s : State) : Result := .next (s.setI (zextAddr nnn)).advance

/-- ADD I, Vx (R191): wraps at 16 bits, no flag. -/
def execAddIVx (x : Reg) (s : State) : Result := .next (s.setI (indexSum s.i (s.reg x))).advance

/-- LD F, Vx (R192): `I <- V[x] × 5`, not masked. -/
def execLdFVx (x : Reg) (s : State) : Result := .next (s.setI (fontAddress (s.reg x))).advance

/-- LD B, Vx (R193): the three decimal digits at I, I+1, I+2. -/
def execLdBVx (x : Reg) (s : State) : Result :=
  withRange s s.addrI 3 (.next (s.setMem (memStore s.mem s.addrI (bcdDigits (s.reg x)))).advance)

/-- LD [I], Vx (R194): V0 to Vx into memory from I. -/
def execLdMemVx (x : Reg) (s : State) : Result :=
  withRange s s.addrI (x.val + 1) (.next (s.setMem (memStore s.mem s.addrI (s.regsUpTo x))).advance)

/-- LD Vx, [I] (R195): V0 to Vx from memory at I. -/
def execLdVxMem (x : Reg) (s : State) : Result :=
  withRange s s.addrI (x.val + 1) (.next (s.setRegsFrom0 (memLoad s.mem s.addrI (x.val + 1))).advance)

end Sys2Proof.Machine
end

