-- ==== Sys2Proof/Machine/Keypad.lean ====
section
/-! DEFINITION. Keypad instructions (spec/45_keypad.md): SKP, SKNP and the key wait LD_VX_K. The host's key events are
in Machine/HostInterface.lean. -/

namespace Sys2Proof.Machine

/-- Run `k` on the key that `V[x]` names; raise `InvalidKey(V[x])` when `V[x] > 15` (R232, R233, D15). -/
def withKey (s : State) (x : Reg) (k : Fin 16 → Result) : Result :=
  match keyOfByte (s.reg x) with
  | some key => k key
  | none => .fault (.invalidKey (s.reg x) s.pc)

/-- SKP Vx (R232): skip if the key is pressed; the latch is neither read nor written. -/
def execSkp (x : Reg) (s : State) : Result := withKey s x fun k => .next (s.skipIf (s.key k))

/-- SKNP Vx (R233): skip if the key is not pressed. -/
def execSknp (x : Reg) (s : State) : Result := withKey s x fun k => .next (s.skipIf (!s.key k))

/-- LD Vx, K (R234): one "begin or poll wait" of the latch per step. -/
def execLdVxK (x : Reg) (s : State) : Result :=
  match s.latch with
  | .idle => .next (s.setLatch .waiting)
  | .waiting => .next s
  | .resolved k => .next ((s.setReg x (zextKey k)).setLatch .idle).advance

end Sys2Proof.Machine
end

