-- ==== Sys2Proof/Machine/Timers.lean ====
section
/-! DEFINITION. Timer instructions (spec/46_timers.md). Each sees the timers as the timer phase of its own step left
them (R250, R251); the phase itself is `State.tick` in Machine/Ops.lean. -/

namespace Sys2Proof.Machine

/-- LD Vx, DT (R251). -/
def execLdVxDt (x : Reg) (s : State) : Result := .next (s.setReg x s.dt).advance

/-- LD DT, Vx (R252). -/
def execLdDtVx (x : Reg) (s : State) : Result := .next (s.setDt (s.reg x)).advance

/-- LD ST, Vx (R253). -/
def execLdStVx (x : Reg) (s : State) : Result := .next (s.setSt (s.reg x)).advance

end Sys2Proof.Machine
end

