-- ==== Sys2Proof/Machine/Step.lean ====
section
/-! DEFINITION. One step of the engine (spec/40_engine_cycle.md R120, R129), and the placing of an instruction where
the next step fetches it. -/

namespace Sys2Proof.Machine

/-- One step (R129): the timer phase, then fetch and decode, then execute. An error raised in any phase is the
outcome, and the state stays as it was before the step (R127): a fault carries no state. Log 5. -/
def step (s : State) : Host.Outcome State Fault Refusal :=
  match fetchInstr s.tick with
  | .error f => .fault f
  | .ok i => exec i s.tick

/-- `s` with the table word whose bits are `w` stored where `step` fetches its next instruction. Log 1. -/
def State.withFetchWord (s : State) (nbits w : Nat) : State := s.placeAtPc (tableBytes nbits w)

end Sys2Proof.Machine
end

