-- ==== Sys2Proof/Machine/CoreStep.lean ====
section
/-! DEFINITION. The step of the CORE as spec/40_engine_cycle.md R129 has it: a function of the tuple of R20 alone and of
"the only input besides S", the byte RND draws, which is an argument (spec/00_scope.md R4, D29). It runs the same
meanings as `step`, which feeds it the next byte of the random input. -/

namespace Sys2Proof.Machine

/-- The tuple as a state, for the operations that take one; `draws` is no part of the tuple and nothing here reads it. -/
def CoreState.toState (c : CoreState) : State := { c with draws := 0 }

/-- An outcome, as far as the tuple of R20 goes. -/
def onTuple (r : Result) : Host.Outcome CoreState Fault Refusal :=
  match r with
  | .next t => .next t.toCoreState
  | .fault f => .fault f
  | .refused e => .refused e

/-- The execute phase on the tuple (R125), with `r` the byte `RandByte()` gives when the instruction is RND (R172). -/
def coreExec (r : Byte) (i : Instr) (c : CoreState) : Host.Outcome CoreState Fault Refusal :=
  match i with
  | .rnd x kk => onTuple (.next (c.toState.setMasked x r kk).advance)
  | i => onTuple (exec i c.toState)

/-- The timer phase on the tuple (R121). -/
def CoreState.tick (c : CoreState) : CoreState := c.toState.tick.toCoreState

/-- `step(S)` of R129 with its input, the draw of `RandByte()`. An error leaves `S` as it was (R127, log 5). -/
def coreStep (r : Byte) (c : CoreState) : Host.Outcome CoreState Fault Refusal :=
  match fetchInstr c.tick.toState with
  | .error f => .fault f
  | .ok i => coreExec r i c.tick

end Sys2Proof.Machine
end

