-- ==== Sys2Proof/Machine/HostInterface.lean ====
section
/-! DEFINITION. The host interface (spec/60_exceptions.md R285, spec/70_reset_and_hazards.md R300, R301): load, step,
the key events, the framebuffer reads and the sound output. Every operation happens between two steps (D25). -/

namespace Sys2Proof.Machine

/-- `load(rom)` (R277, R300, R301): a new engine in the reset state with the ROM at 0x200, or `LoadError(len)` and no
engine. It keeps nothing of an earlier engine; `draws`, the model's own counter, goes on from the value given, so
that the draws of the new engine are fresh too. Log 10. -/
def load (draws : Nat) (rom : List Byte) : Result :=
  if rom.length > Config.romMax then .fault (.loadError rom.length)
  else .next { State.reset with mem := memStore State.reset.mem Config.romBase rom, draws := draws }

/-- `key_pressed(k)` for a key of the keypad: `K[k] <- true` and nothing else (R230). -/
def State.pressKey (s : State) (k : Fin 16) : State := s.setKey k true

/-- What a release makes of the latch: a wait in progress is resolved with the released key (R231, R235). -/
def Latch.onRelease (l : Latch) (k : Fin 16) : Latch :=
  match l with
  | .idle => .idle
  | .waiting => .resolved k
  | .resolved j => .resolved j

/-- `key_released(k)` for a key of the keypad: `K[k] <- false`, and a waiting latch is resolved with `k` (R231). -/
def State.releaseKey (s : State) (k : Fin 16) : State := (s.setKey k false).setLatch (s.latch.onRelease k)

/-- `key_pressed(k)`; an index above 15 is refused (R230, D24). Log 9. -/
def keyPressed (k : Nat) (s : State) : Result :=
  if h : k < 16 then .next (s.pressKey ⟨k, h⟩) else .refused (.keyIndexOutOfRange k)

/-- `key_released(k)`; an index above 15 is refused (R231, D24). Log 9. -/
def keyReleased (k : Nat) (s : State) : Result :=
  if h : k < 16 then .next (s.releaseKey ⟨k, h⟩) else .refused (.keyIndexOutOfRange k)

/-- `pixel(x, y)`; a coordinate out of range is refused (R216, D24). Log 9. -/
def pixel (x y : Nat) (s : State) : Except Refusal Bool :=
  if h : x < 64 ∧ y < 32 then .ok (getPixel s.fb ⟨x, h.1⟩ ⟨y, h.2⟩) else .error (.pixelOutOfRange x y)

/-- `display()` / `pixels()`: the whole framebuffer, row-major (R210, R216). -/
def pixels (s : State) : List Bool := (s.fb.toList.map Vector.toList).flatten

/-- `sound_active()`: `ST > 0` (R256). -/
def soundActive (s : State) : Bool := decide (s.st.toNat > 0)

/-- The operations of R285. -/
inductive HostOp where
  | load (rom : List Byte)
  | step
  | keyPressed (k : Nat)
  | keyReleased (k : Nat)
  | display
  | pixel (x y : Nat)
  | soundActive
  deriving DecidableEq, Repr

/-- What the host gets back (R285). -/
inductive HostReply where
  /-- `Ok`, the new engine, or nothing -/
  | ok
  /-- `Err(kind, info, pc)` of a step: the engine's state is unchanged -/
  | err (f : Fault)
  /-- the framebuffer in row-major order -/
  | grid (bits : List Bool)
  /-- a pixel, or the sound output -/
  | bit (b : Bool)
  deriving DecidableEq, Repr

/-- `Ok` with the new state, or the outcome as it stands. -/
def replyOk (r : Result) : Host.Outcome (State × HostReply) Fault Refusal :=
  match r with
  | .next t => .next (t, .ok)
  | .fault f => .fault f
  | .refused e => .refused e

/-- One host operation on an engine (R285). A step that raises an error replies with it and leaves the engine as it
was before the step (R127, R273), so the host may go on; a refused `load` leaves no engine and is a fault (R277). -/
def hostCall (op : HostOp) (s : State) : Host.Outcome (State × HostReply) Fault Refusal :=
  match op with
  | .load rom => replyOk (load s.draws rom)
  | .step =>
    match step s with
    | .next t => .next (t, .ok)
    | .fault f => .next (s, .err f)
    | .refused e => .refused e
  | .keyPressed k => replyOk (keyPressed k s)
  | .keyReleased k => replyOk (keyReleased k s)
  | .display => .next (s, .grid (pixels s))
  | .pixel x y =>
    match pixel x y s with
    | .ok b => .next (s, .bit b)
    | .error e => .refused e
  | .soundActive => .next (s, .bit (soundActive s))

end Sys2Proof.Machine
end

