-- ==== Sys2Proof/Safety.lean ====
section
/-! DEFINITION. The terms the claims use: the parts of the state and what "nothing else changes" means, the tables of
the spec as functions (errors R271, program counter R124, register writers R22, writers of every other part R26 to
R36), the sprite as a picture (R212), illegal words (R98), the invariant of every reachable engine (R25, R28, R35),
and runs of host operations (R285). -/

namespace Sys2Proof.Machine

/-! ### Parts of the state and frames -/

/-- The parts of the state tuple (R20) and the model's own counter of draws. -/
inductive Part where
  | v | i | pc | sp | stack | dt | st | mem | fb | keys | latch | draws
  deriving DecidableEq, Repr

/-- The slot `stack[j]`, for statements; every slot there is, and 0 beyond. -/
def State.slot (s : State) (j : Nat) : Word := (s.stack[j]?).getD 0#16

/-- Two states agree on a part: on every register, slot, byte, pixel and key of it. -/
def Part.same (p : Part) (s t : State) : Prop :=
  match p with
  | .v => ∀ r : Reg, t.reg r = s.reg r
  | .i => t.i = s.i
  | .pc => t.pc = s.pc
  | .sp => t.sp = s.sp
  | .stack => ∀ j : Nat, t.slot j = s.slot j
  | .dt => t.dt = s.dt
  | .st => t.st = s.st
  | .mem => ∀ a : Nat, t.byte a = s.byte a
  | .fb => ∀ (x : Fin 64) (y : Fin 32), getPixel t.fb x y = getPixel s.fb x y
  | .keys => ∀ k : Fin 16, t.key k = s.key k
  | .latch => t.latch = s.latch
  | .draws => t.draws = s.draws

/-- From `s` to `t` only the listed parts may change; every other part is the same. -/
def OnlyChanges (ps : List Part) (s t : State) : Prop := ∀ p : Part, p ∉ ps → p.same s t

/-- From `s` to `t`: register `x` becomes `b`, every other register is unchanged, `pc` advances by 2, and nothing else
changes. -/
def SetsReg (x : Reg) (b : Byte) (s t : State) : Prop :=
  t.reg x = b ∧ (∀ r : Reg, r ≠ x → t.reg r = s.reg r) ∧ t.pc = s.pc + 2#16 ∧ OnlyChanges [.v, .pc] s t

/-- From `s` to `t`: VF becomes 1 or 0 as `flag` says, register `x` becomes `b` unless it is VF itself, every other
register is unchanged, `pc` advances by 2, and nothing else changes (R160). -/
def SetsRegAndFlag (x : Reg) (b : Byte) (flag : Bool) (s t : State) : Prop :=
  t.reg 15 = (if flag then 1#8 else 0#8) ∧ (x ≠ 15 → t.reg x = b) ∧
  (∀ r : Reg, r ≠ x → r ≠ 15 → t.reg r = s.reg r) ∧ t.pc = s.pc + 2#16 ∧ OnlyChanges [.v, .pc] s t

/-- From `s` to `t`: `pc` moves past the next instruction when `c` holds and to it otherwise, and nothing else
changes (R124). -/
def Skips (c : Prop) (s t : State) : Prop :=
  (c → t.pc = s.pc + 4#16) ∧ (¬ c → t.pc = s.pc + 2#16) ∧ OnlyChanges [.pc] s t

/-- Every word that matches a row of the opcode map decodes to that row's instruction, its operands cut by R91. -/
def RowDecodes (pattern mask : Word) (f : Word → Instr) : Prop :=
  ∀ w : Word, w &&& mask = pattern → decode w = .ok (f w)

/-! ### The spec's tables -/

/-- The errors of instructions: the table of R271, for `sp` at most 16. -/
def raised (i : Instr) (s : State) : Option Fault :=
  match i with
  | .ret => if s.sp.toNat = 0 then some (.stackUnderflow s.pc) else none
  | .call _ => if s.sp.toNat = 16 then some (.stackOverflow s.pc) else none
  | .drw _ _ n =>
    if 0 < n ∧ 4096 ≤ s.i.toNat + n - 1 then some (.addressError (max s.i.toNat 4096) s.pc) else none
  | .skp x => if 15 < (s.reg x).toNat then some (.invalidKey (s.reg x) s.pc) else none
  | .sknp x => if 15 < (s.reg x).toNat then some (.invalidKey (s.reg x) s.pc) else none
  | .ldBVx _ => if 4096 ≤ s.i.toNat + 2 then some (.addressError (max s.i.toNat 4096) s.pc) else none
  | .ldMemVx x => if 4096 ≤ s.i.toNat + x.val then some (.addressError (max s.i.toNat 4096) s.pc) else none
  | .ldVxMem x => if 4096 ≤ s.i.toNat + x.val then some (.addressError (max s.i.toNat 4096) s.pc) else none
  | _ => none

/-- The error of a step, in the order of R272: the fetch's, the decoder's, the instruction's. The instruction sees the
state the timer phase left. -/
def stepRaised (s : State) : Option Fault :=
  if 0xFFF < s.pc.toNat then some (.addressError s.pc.toNat s.pc)
  else if s.pc.toNat = 0xFFF then some (.addressError 0x1000 s.pc)
  else
    let w := wordOfBytes (s.byte s.pc.toNat) (s.byte (s.pc.toNat + 1))
    match decode w with
    | .error _ => some (.decodeError w s.pc)
    | .ok i => raised i s.tick

/-- The new `pc` as an exact number: the table of R124. -/
def nextPc (i : Instr) (s : State) : Nat :=
  match i with
  | .jp nnn => nnn.toNat
  | .call nnn => nnn.toNat
  | .ret => (s.slot (s.sp.toNat - 1)).toNat
  | .jpV0 nnn => nnn.toNat + (s.reg 0).toNat
  | .ldVxK _ =>
    match s.latch with
    | .idle => s.pc.toNat
    | .waiting => s.pc.toNat
    | .resolved _ => s.pc.toNat + 2
  | .seImm x kk => if s.reg x = kk then s.pc.toNat + 4 else s.pc.toNat + 2
  | .sneImm x kk => if s.reg x ≠ kk then s.pc.toNat + 4 else s.pc.toNat + 2
  | .seReg x y => if s.reg x = s.reg y then s.pc.toNat + 4 else s.pc.toNat + 2
  | .sneReg x y => if s.reg x ≠ s.reg y then s.pc.toNat + 4 else s.pc.toNat + 2
  | .skp x => if s.keys[(s.reg x).toNat]? = some true then s.pc.toNat + 4 else s.pc.toNat + 2
  | .sknp x => if s.keys[(s.reg x).toNat]? = some false then s.pc.toNat + 4 else s.pc.toNat + 2
  | _ => s.pc.toNat + 2

/-- The registers an instruction writes in a state: the last column of R22. -/
def writesReg (i : Instr) (s : State) (r : Reg) : Prop :=
  match i with
  | .ldImm x _ => r = x
  | .addImm x _ => r = x
  | .ldReg x _ => r = x
  | .orReg x _ => r = x
  | .andReg x _ => r = x
  | .xorReg x _ => r = x
  | .addReg x _ => r = x ∨ r = 15
  | .sub x _ => r = x ∨ r = 15
  | .shr x _ => r = x ∨ r = 15
  | .subn x _ => r = x ∨ r = 15
  | .shl x _ => r = x ∨ r = 15
  | .rnd x _ => r = x
  | .drw _ _ _ => r = 15
  | .ldVxDt x => r = x
  | .ldVxK x => (∃ k, s.latch = .resolved k) ∧ r = x
  | .ldVxMem x => r ≤ x
  | _ => False

/-- The instructions that write VF as a side effect: 8xy4 to 8xy7, 8xyE and Dxyn (R23). -/
def writesFlag (i : Instr) : Prop :=
  match i with
  | .addReg _ _ => True
  | .sub _ _ => True
  | .shr _ _ => True
  | .subn _ _ => True
  | .shl _ _ => True
  | .drw _ _ _ => True
  | _ => False

/-- The instructions that name VF as their destination: x = 0xF, or Fx65 with x = 0xF (R23). -/
def namesVFAsDestination (i : Instr) : Prop :=
  match i with
  | .ldImm x _ => x = 15
  | .addImm x _ => x = 15
  | .ldReg x _ => x = 15
  | .orReg x _ => x = 15
  | .andReg x _ => x = 15
  | .xorReg x _ => x = 15
  | .rnd x _ => x = 15
  | .ldVxDt x => x = 15
  | .ldVxK x => x = 15
  | .ldVxMem x => x = 15
  | _ => False

/-- The parts an instruction may change: the "written by" columns of R22, R26 to R36 and R124, and R72 for memory,
R216 for the framebuffer, R33 for the keys; `draws` is the model's own counter. -/
def mayChange (i : Instr) : List Part :=
  match i with
  | .cls => [.fb, .pc]
  | .ret => [.sp, .pc]
  | .jp _ => [.pc]
  | .call _ => [.sp, .stack, .pc]
  | .seImm _ _ => [.pc]
  | .sneImm _ _ => [.pc]
  | .seReg _ _ => [.pc]
  | .ldImm _ _ => [.v, .pc]
  | .addImm _ _ => [.v, .pc]
  | .ldReg _ _ => [.v, .pc]
  | .orReg _ _ => [.v, .pc]
  | .andReg _ _ => [.v, .pc]
  | .xorReg _ _ => [.v, .pc]
  | .addReg _ _ => [.v, .pc]
  | .sub _ _ => [.v, .pc]
  | .shr _ _ => [.v, .pc]
  | .subn _ _ => [.v, .pc]
  | .shl _ _ => [.v, .pc]
  | .sneReg _ _ => [.pc]
  | .ldI _ => [.i, .pc]
  | .jpV0 _ => [.pc]
  | .rnd _ _ => [.v, .pc, .draws]
  | .drw _ _ _ => [.fb, .v, .pc]
  | .skp _ => [.pc]
  | .sknp _ => [.pc]
  | .ldVxDt _ => [.v, .pc]
  | .ldVxK _ => [.v, .latch, .pc]
  | .ldDtVx _ => [.dt, .pc]
  | .ldStVx _ => [.st, .pc]
  | .addIVx _ => [.i, .pc]
  | .ldFVx _ => [.i, .pc]
  | .ldBVx _ => [.mem, .pc]
  | .ldMemVx _ => [.mem, .pc]
  | .ldVxMem _ => [.v, .pc]

/-- The illegal words: the table of R98. -/
def IllegalWord (w : Word) : Prop :=
  (fieldOp w = 0x0#4 ∧ w ≠ 0x00E0#16 ∧ w ≠ 0x00EE#16) ∨
  (fieldOp w = 0x5#4 ∧ fieldN w ≠ 0x0#4) ∨
  (fieldOp w = 0x8#4 ∧ fieldN w ∈ [0x8#4, 0x9#4, 0xA#4, 0xB#4, 0xC#4, 0xD#4, 0xF#4]) ∨
  (fieldOp w = 0x9#4 ∧ fieldN w ≠ 0x0#4) ∨
  (fieldOp w = 0xE#4 ∧ fieldKk w ∉ [0x9E#8, 0xA1#8]) ∨
  (fieldOp w = 0xF#4 ∧ fieldKk w ∉ [0x07#8, 0x0A#8, 0x15#8, 0x18#8, 0x1E#8, 0x29#8, 0x33#8, 0x55#8, 0x65#8])

/-! ### The sprite as a picture (R212) -/

/-- The column of the sprite that falls on framebuffer column `px`, counted from `x0` around the edge. -/
def spriteCol (x0 : Nat) (px : Fin 64) : Nat := (px.val + 64 - x0 % 64) % 64

/-- The row of the sprite that falls on framebuffer row `py`, counted from `y0` around the edge. -/
def spriteRow (y0 : Nat) (py : Fin 32) : Nat := (py.val + 32 - y0 % 32) % 32

/-- The sprite bit that falls on pixel (px, py): column c is bit 7 − c of its row's byte; no bit outside the sprite. -/
def spriteBit (x0 y0 : Nat) (rows : List Byte) (px : Fin 64) (py : Fin 32) : Bool :=
  decide (spriteCol x0 px < 8) && (rows.getD (spriteRow y0 py) 0#8).getLsbD (7 - spriteCol x0 px)

/-- The sprite of DRW: "memory[I..I+n]", the n bytes from `I` (R9, R214). -/
def spriteRows (s : State) (n : Nat) : List Byte := (List.range n).map fun r => s.byte (s.i.toNat + r)

/-! ### Invariant -/

/-- What holds of every reachable engine: memory is canonical; `sp` is 0 to 16 (R28); `pc` is at most 0x10FE and no
slot holds more than 0x1000 (R25); and while the latch is not idle the word at `pc` is an Fx0A (R35). -/
structure Inv (s : State) : Prop where
  memory_canonical : memoryWf s.mem = true
  sp_bound : s.sp.toNat ≤ 16
  pc_bound : s.pc.toNat ≤ 0x10FE
  slot_bound : ∀ j : Nat, (s.slot j).toNat ≤ 0x1000
  wait_at_pc : s.latch ≠ .idle → ∃ x : Reg, fetchInstr s = .ok (.ldVxK x)

/-! ### Runs of host operations -/

/-- The engine after a list of host operations, if every one of them is answered (R285). -/
def hostRun : List HostOp → State → Option State
  | [], s => some s
  | op :: ops, s =>
    match hostCall op s with
    | .next (t, _) => hostRun ops t
    | .fault _ => none
    | .refused _ => none

/-- A step or a key event with an index of the keypad (R285 (b)). -/
def HostOp.isStepOrKey : HostOp → Bool
  | .load _ => false
  | .step => true
  | .keyPressed k => decide (k < 16)
  | .keyReleased k => decide (k < 16)
  | .display => false
  | .pixel _ _ => false
  | .soundActive => false

/-- `k` successful steps, none of which executes an instruction of the kind `bad`. -/
def stepsWithout (bad : Instr → Bool) : Nat → State → Option State
  | 0, s => some s
  | k + 1, s =>
    match fetchInstr s.tick with
    | .error _ => none
    | .ok i =>
      if bad i then none
      else
        match exec i s.tick with
        | .next t => stepsWithout bad k t
        | .fault _ => none
        | .refused _ => none

/-- Fx15, the only instruction that writes DT (R252). -/
def writesDt : Instr → Bool
  | .ldDtVx _ => true
  | _ => false

/-- Fx18, the only instruction that writes ST (R253). -/
def writesSt : Instr → Bool
  | .ldStVx _ => true
  | _ => false

/-- The engines a host can bring about: a load, then any operations (R285). -/
inductive Reachable : State → Prop where
  | loaded (draws : Nat) (rom : List Byte) (s : State) : load draws rom = .next s → Reachable s
  | called (op : HostOp) (s t : State) (r : HostReply) : Reachable s → hostCall op s = .next (t, r) → Reachable t

end Sys2Proof.Machine
end

