-- ==== Sys2Proof/Certificates/Slice0/Obligations.lean ====
section
/-! DEFINITION. The obligations: statements about the CORE, each from the numbered rules of spec/ its docstring names.
Where a statement says that an instruction completes, its conclusion is `exec … = .next t`. `OnlyChanges` names the
parts of the state that may change; memory in it is read byte by byte. -/

open Sys2Proof Sys2Proof.Machine

/-! ### Encoding and decoding -/

/-- R94, R95: the decoder gives back every well-formed instruction from its word, every operand at every value. -/
def Obligations.DecodeOfEncode : Prop :=
  ∀ i : Instr, i.wellFormed = true → decode (encode i) = .ok i

/-- R97: every bit of a legal word is a fixed opcode bit or an operand bit, so the instruction determines the word. -/
def Obligations.EncodeOfDecode : Prop :=
  ∀ (w : Word) (i : Instr), decode w = .ok i → i.wellFormed = true ∧ encode i = w

/-- R95: there are 34 rows; a word is legal exactly when it matches a row; it decodes to that row's instruction; no word
matches two rows. -/
def Obligations.LegalWordsMatchOneRow : Prop :=
  opcodeRows.length = 34 ∧
  (∀ w : Word, (∃ i, decode w = .ok i) ↔ ∃ row ∈ opcodeRows, row.matches w = true) ∧
  (∀ (w : Word) (i : Instr) (row : OpcodeRow), decode w = .ok i → row ∈ opcodeRows → row.matches w = true →
    row.mnemonic = i.mnemonic) ∧
  (∀ (w : Word) (row row' : OpcodeRow), row ∈ opcodeRows → row' ∈ opcodeRows → row.matches w = true →
    row'.matches w = true → row = row')

/-- R102: the source's example words decode to the instructions it names, and its jump ROM is fetched as 0x1789. -/
def Obligations.SourceExampleWordsDecode : Prop :=
  (∀ (draws : Nat) (s : State), load draws [0x17#8, 0x89#8] = .next s →
    s.byte 0x200 = 0x17#8 ∧ s.byte 0x201 = 0x89#8 ∧ fetch s = .ok 0x1789#16) ∧
  fieldOp 0x1789#16 = 0x1#4 ∧ decode 0x1789#16 = .ok (.jp 0x789#12) ∧
  wordOfBytes 0x21#8 0x23#8 = 0x2123#16 ∧ decode 0x2123#16 = .ok (.call 0x123#12) ∧
  decode (wordOfBytes 0x00#8 0xE0#8) = .ok .cls ∧ decode (wordOfBytes 0x00#8 0xEE#8) = .ok .ret ∧
  fieldOp 0xD125#16 = 0xD#4 ∧ fieldX 0xD125#16 = 1 ∧ fieldY 0xD125#16 = 2 ∧ fieldN 0xD125#16 = 5#4 ∧
  fieldKk 0xD125#16 = 0x25#8 ∧ fieldNnn 0xD125#16 = 0x125#12 ∧ decode 0xD125#16 = .ok (.drw 1 2 5)

/-- R98: the words the decoder rejects are exactly those of the table of illegal words, each rejected by its own name,
and a step that fetches one raises `DecodeError(w)`. (The counts of R98 are not stated.) -/
def Obligations.IllegalWordsAreTheTable : Prop :=
  (∀ w : Word, decode w = .error (.illegalWord w) ↔ IllegalWord w) ∧
  (∀ w : Word, (∀ i, decode w ≠ .ok i) ↔ IllegalWord w) ∧
  (∀ (s : State) (w : Word), fetch s = .ok w → IllegalWord w → step s = .fault (.decodeError w s.pc))

/-! ### The step -/

/-- R122, R123, R125, R129: when the two bytes at `pc` decode to an instruction, the step is that instruction's
execution on the state the timer phase leaves. -/
def Obligations.StepRunsDecodedInstruction : Prop :=
  ∀ (s : State) (i : Instr), s.pc.toNat + 1 < 4096 →
    decode (wordOfBytes (s.byte s.pc.toNat) (s.byte (s.pc.toNat + 1))) = .ok i →
    step s = exec i s.tick

/-- R66: the fetch reads two bytes, big-endian, and raises `AddressError` at the first of them that is out of memory. -/
def Obligations.FetchReadsTwoBytesBigEndian : Prop :=
  ∀ s : State,
    (s.pc.toNat ≤ 0xFFE → ∃ w : Word, fetch s = .ok w ∧
      w.extractLsb' 8 8 = s.byte s.pc.toNat ∧ w.extractLsb' 0 8 = s.byte (s.pc.toNat + 1)) ∧
    (s.pc.toNat = 0xFFF → fetch s = .error (.addressError 0x1000 s.pc)) ∧
    (0x1000 ≤ s.pc.toNat → fetch s = .error (.addressError s.pc.toNat s.pc))

/-- R121: the timer phase decrements each timer unless it is 0 and changes nothing else; every later phase sees the
decremented values; it is undone if the step raises an error. -/
def Obligations.TimerPhaseComesFirst : Prop :=
  (∀ s : State, s.tick.dt.toNat = s.dt.toNat - 1 ∧ s.tick.st.toNat = s.st.toNat - 1 ∧
    OnlyChanges [.dt, .st] s s.tick) ∧
  (∀ s t : State, step s = .next t → ∃ i, fetchInstr s.tick = .ok i ∧ exec i s.tick = .next t) ∧
  (∀ (s : State) (f : Fault), step s = .fault f → hostCall .step s = .next (s, .err f))

/-- R126, R127: a step without an error makes the state it built the state of the machine; a step with an error returns
it and leaves the state as it was. -/
def Obligations.StepCommitsOrRollsBack : Prop :=
  ∀ s : State,
    (∀ t, step s = .next t → hostCall .step s = .next (t, .ok)) ∧
    (∀ f, step s = .fault f → hostCall .step s = .next (s, .err f))

/-- R128: an illegal word raises `DecodeError(w)` with the `pc` it was fetched from, the state unchanged, and so does
every further step. -/
def Obligations.DecodeErrorRepeats : Prop :=
  ∀ (s : State) (w : Word) (k : Nat), fetch s = .ok w → IllegalWord w →
    hostRun (List.replicate k .step) s = some s ∧
    hostCall .step s = .next (s, .err (.decodeError w s.pc))

/-- R275: once a step raises an error, the host can go on with steps and key events, and after any operations but a new
load every step raises the same error, and nothing but the keys and the latch, which key events change, has changed. -/
def Obligations.ErrorIsPermanent : Prop :=
  ∀ (s : State) (f : Fault) (ops : List HostOp), step s = .fault f →
    ((∀ op ∈ ops, op.isStepOrKey = true) → ∃ t, hostRun ops s = some t) ∧
    ((∀ op ∈ ops, ∀ rom, op ≠ .load rom) → ∀ t, hostRun ops s = some t →
      step t = .fault f ∧ OnlyChanges [.keys, .latch] s t)

/-- R271 (the rows of the instructions): an instruction raises exactly the error its row gives, exactly under the row's
condition, in every state with `sp` at most 16 (R28). -/
def Obligations.InstructionErrorsAreTheTable : Prop :=
  ∀ (i : Instr) (s : State) (f : Fault), s.sp.toNat ≤ 16 → (exec i s = .fault f ↔ raised i s = some f)

/-- R271, R272: a step raises exactly the error of the table, the fetch's before the decoder's before the
instruction's, in every state with `sp` at most 16 (R28). -/
def Obligations.StepErrorsInOrder : Prop :=
  ∀ (s : State) (f : Fault), s.sp.toNat ≤ 16 → (step s = .fault f ↔ stepRaised s = some f)

/-- R99, R126, R127: every word is an instruction or illegal, and a step answers `Ok` or an error; nothing is refused. -/
def Obligations.NothingIsRefused : Prop :=
  (∀ (i : Instr) (s : State) (r : Refusal), exec i s ≠ .refused r) ∧ (∀ (s : State) (r : Refusal), step s ≠ .refused r)

/-! ### Invariant -/

/-- R25, R28, R35: every step keeps the invariant. -/
def Obligations.StepKeepsInvariant : Prop :=
  ∀ s t : State, Inv s → step s = .next t → Inv t

/-- R39: the invariant holds at reset. -/
def Obligations.ResetMeetsInvariant : Prop := Inv State.reset

/-- R25, R28, R35, R285: the invariant holds of every engine a host can bring about by loads, steps, key events and
reads. -/
def Obligations.ReachableEnginesMeetInvariant : Prop :=
  ∀ s : State, Reachable s → Inv s

/-! ### What instructions may write -/

/-- R22: an instruction writes no general register but those of its row. -/
def Obligations.RegistersWrittenOnlyAsListed : Prop :=
  ∀ (i : Instr) (s t : State) (r : Reg), exec i s = .next t → ¬ writesReg i s r → t.reg r = s.reg r

/-- R23: the flag writers write VF 0 or 1; no other instruction writes VF except by naming it as its destination. -/
def Obligations.FlagWrittenZeroOrOne : Prop :=
  ∀ (i : Instr) (s t : State), exec i s = .next t →
    (writesFlag i → t.reg 15 = 0#8 ∨ t.reg 15 = 1#8) ∧
    (¬ writesFlag i → ¬ namesVFAsDestination i → t.reg 15 = s.reg 15)

/-- R125 with the writers of R26 to R36: an instruction leaves every part of the state unchanged that its rule does not
write. -/
def Obligations.OtherPartsKeepTheirValue : Prop :=
  ∀ (i : Instr) (s t : State), exec i s = .next t → OnlyChanges (mayChange i) s t

/-- R72: after `load`, a byte of memory changes only in a step that executes Fx33 or Fx55; no other host operation
changes one. -/
def Obligations.MemoryWrittenOnlyByStores : Prop :=
  ∀ (op : HostOp) (s t : State) (r : HostReply) (a : Nat), hostCall op s = .next (t, r) → (∀ rom, op ≠ .load rom) →
    t.byte a ≠ s.byte a →
    op = .step ∧ ∃ x, fetchInstr s.tick = .ok (.ldBVx x) ∨ fetchInstr s.tick = .ok (.ldMemVx x)

/-- R124: the new `pc` is the exact sum of the table, from every `pc` an instruction can be fetched from. -/
def Obligations.NextPcIsTheTable : Prop :=
  ∀ (i : Instr) (s t : State), s.pc.toNat ≤ 0xFFE → exec i s = .next t → t.pc.toNat = nextPc i s

/-- R30, R33, R34: no instruction but SKP and SKNP reads the keys, none but LD_VX_K reads the latch, and none reads ST:
with those set to anything the outcome is the same but for them. -/
def Obligations.KeypadAndSoundTimerAreUnread : Prop :=
  (∀ (i : Instr) (s t : State) (ks : Vector Bool 16), (∀ x, i ≠ .skp x ∧ i ≠ .sknp x) → exec i s = .next t →
    exec i { s with keys := ks } = .next { t with keys := ks }) ∧
  (∀ (i : Instr) (s t : State) (l : Latch), (∀ x, i ≠ .ldVxK x) → exec i s = .next t →
    exec i { s with latch := l } = .next { t with latch := l }) ∧
  (∀ (i : Instr) (s t : State) (b : Byte), (∀ x, i ≠ .ldStVx x) → exec i s = .next t →
    exec i { s with st := b } = .next { t with st := b })

/-- R20 with R38 and R172 ("and nothing else"): the tuple of R20 is all of the state an outcome depends on, but for the
byte RND draws. With the model's place in the random input (log 3) set to anything, every instruction but RND leaves
that place as it was and gives the same tuple, RND gives the same tuple where the byte drawn is the same, and every
instruction and every step raises the same error. -/
def Obligations.NothingButTheTupleIsState : Prop :=
  (∀ (i : Instr) (s t : State) (d : Nat), (∀ x kk, i ≠ .rnd x kk) → exec i s = .next t →
    t.draws = s.draws ∧ exec i { s with draws := d } = .next { t with draws := d }) ∧
  (∀ (x : Reg) (kk : Byte) (s t : State) (d : Nat), exec (.rnd x kk) s = .next t →
    Config.randByte d = Config.randByte s.draws →
    ∃ t', exec (.rnd x kk) { s with draws := d } = .next t' ∧ t'.toCoreState = t.toCoreState) ∧
  (∀ (i : Instr) (s : State) (d : Nat) (f : Fault), exec i s = .fault f → exec i { s with draws := d } = .fault f) ∧
  (∀ (s : State) (d : Nat) (f : Fault), step s = .fault f → step { s with draws := d } = .fault f)

/-- R129 with R20: the step is the CORE's step, a function of the tuple of R20 and the byte RND draws alone, fed the next
byte of the random input (log 3); and the byte is an input of RND only. -/
def Obligations.StepIsTheTuplesStepOnTheNextByte : Prop :=
  (∀ s : State, onTuple (step s) = coreStep (Config.randByte s.draws) s.toCoreState) ∧
  (∀ (i : Instr) (s : State), onTuple (exec i s) = coreExec (Config.randByte s.draws) i s.toCoreState) ∧
  (∀ (r r' : Byte) (i : Instr) (c : CoreState), (∀ x kk, i ≠ .rnd x kk) → coreExec r i c = coreExec r' i c)

/-! ### Control flow -/

/-- R142: JP sets `pc` to `nnn`. -/
def Obligations.JumpSetsPc : Prop :=
  RowDecodes 0x1000#16 0xF000#16 (fun w => .jp (fieldNnn w)) ∧
  ∀ (nnn : BitVec 12) (s : State), ∃ t, exec (.jp nnn) s = .next t ∧ t.pc.toNat = nnn.toNat ∧ OnlyChanges [.pc] s t

/-- R143: CALL pushes the address after the call and jumps; with 16 slots occupied it raises `StackOverflow`. -/
def Obligations.CallPushesReturnAddress : Prop :=
  RowDecodes 0x2000#16 0xF000#16 (fun w => .call (fieldNnn w)) ∧
  (∀ (nnn : BitVec 12) (s : State), s.sp.toNat < 16 → ∃ t, exec (.call nnn) s = .next t ∧
    t.slot s.sp.toNat = s.pc + 2#16 ∧ (∀ j : Nat, j ≠ s.sp.toNat → t.slot j = s.slot j) ∧
    t.sp.toNat = s.sp.toNat + 1 ∧ t.pc.toNat = nnn.toNat ∧ OnlyChanges [.sp, .stack, .pc] s t) ∧
  (∀ (nnn : BitVec 12) (s : State), s.sp.toNat = 16 → exec (.call nnn) s = .fault (.stackOverflow s.pc))

/-- R141: RET pops the top slot into `pc` and keeps the slot's value; with no slot occupied it raises
`StackUnderflow`. -/
def Obligations.ReturnPopsAddress : Prop :=
  RowDecodes 0x00EE#16 0xFFFF#16 (fun _ => .ret) ∧
  (∀ s : State, 0 < s.sp.toNat → s.sp.toNat ≤ 16 → ∃ t, exec .ret s = .next t ∧
    t.pc = s.slot (s.sp.toNat - 1) ∧ t.sp.toNat = s.sp.toNat - 1 ∧ OnlyChanges [.sp, .pc] s t) ∧
  (∀ s : State, s.sp.toNat = 0 → exec .ret s = .fault (.stackUnderflow s.pc))

/-- R140 (C1): a return with the stack as a call left it goes to the instruction after the call and empties the call's
slot. -/
def Obligations.ReturnUndoesCall : Prop :=
  ∀ (nnn : BitVec 12) (s t u : State), exec (.call nnn) s = .next t → u.sp = t.sp → (∀ j, u.slot j = t.slot j) →
    ∃ w, exec .ret u = .next w ∧ w.pc = s.pc + 2#16 ∧ w.sp = s.sp

/-- The model's own stop (log 6): where `sp` is above 16, which R28 rules out of every run, CALL and RET stop by name. -/
def Obligations.StackPointerAboveSixteenStops : Prop :=
  ∀ (nnn : BitVec 12) (s : State), 16 < s.sp.toNat →
    exec (.call nnn) s = .fault (.stackPointerIllegal s.sp s.pc) ∧ exec .ret s = .fault (.stackPointerIllegal s.sp s.pc)

/-- R144: JP_V0 sets `pc` to the exact sum of `nnn` and V0. -/
def Obligations.JumpAddsV0 : Prop :=
  RowDecodes 0xB000#16 0xF000#16 (fun w => .jpV0 (fieldNnn w)) ∧
  ∀ (nnn : BitVec 12) (s : State), ∃ t, exec (.jpV0 nnn) s = .next t ∧
    t.pc.toNat = nnn.toNat + (s.reg 0).toNat ∧ OnlyChanges [.pc] s t

/-- R145 to R148: the skips on registers. -/
def Obligations.RegisterSkips : Prop :=
  RowDecodes 0x3000#16 0xF000#16 (fun w => .seImm (fieldX w) (fieldKk w)) ∧
  RowDecodes 0x4000#16 0xF000#16 (fun w => .sneImm (fieldX w) (fieldKk w)) ∧
  RowDecodes 0x5000#16 0xF00F#16 (fun w => .seReg (fieldX w) (fieldY w)) ∧
  RowDecodes 0x9000#16 0xF00F#16 (fun w => .sneReg (fieldX w) (fieldY w)) ∧
  (∀ (x : Reg) (kk : Byte) (s : State),
    (∃ t, exec (.seImm x kk) s = .next t ∧ Skips (s.reg x = kk) s t) ∧
    (∃ t, exec (.sneImm x kk) s = .next t ∧ Skips (s.reg x ≠ kk) s t)) ∧
  (∀ (x y : Reg) (s : State),
    (∃ t, exec (.seReg x y) s = .next t ∧ Skips (s.reg x = s.reg y) s t) ∧
    (∃ t, exec (.sneReg x y) s = .next t ∧ Skips (s.reg x ≠ s.reg y) s t))

/-! ### ALU -/

/-- R161, R162, R163: load an immediate, add an immediate without a flag, copy a register. -/
def Obligations.LoadAddImmediateAndCopy : Prop :=
  RowDecodes 0x6000#16 0xF000#16 (fun w => .ldImm (fieldX w) (fieldKk w)) ∧
  RowDecodes 0x7000#16 0xF000#16 (fun w => .addImm (fieldX w) (fieldKk w)) ∧
  RowDecodes 0x8000#16 0xF00F#16 (fun w => .ldReg (fieldX w) (fieldY w)) ∧
  (∀ (x : Reg) (kk : Byte) (s : State),
    (∃ t, exec (.ldImm x kk) s = .next t ∧ SetsReg x kk s t) ∧
    (∃ t, exec (.addImm x kk) s = .next t ∧ SetsReg x (s.reg x + kk) s t)) ∧
  (∀ (x y : Reg) (s : State), ∃ t, exec (.ldReg x y) s = .next t ∧ SetsReg x (s.reg y) s t)

/-- R164, R165, R166: the bitwise instructions, which do not reset VF. -/
def Obligations.BitwiseLogic : Prop :=
  RowDecodes 0x8001#16 0xF00F#16 (fun w => .orReg (fieldX w) (fieldY w)) ∧
  RowDecodes 0x8002#16 0xF00F#16 (fun w => .andReg (fieldX w) (fieldY w)) ∧
  RowDecodes 0x8003#16 0xF00F#16 (fun w => .xorReg (fieldX w) (fieldY w)) ∧
  ∀ (x y : Reg) (s : State),
    (∃ t, exec (.orReg x y) s = .next t ∧ SetsReg x (s.reg x ||| s.reg y) s t) ∧
    (∃ t, exec (.andReg x y) s = .next t ∧ SetsReg x (s.reg x &&& s.reg y) s t) ∧
    (∃ t, exec (.xorReg x y) s = .next t ∧ SetsReg x (s.reg x ^^^ s.reg y) s t)

/-- R167: ADD_REG writes the wrapped sum, then the carry to VF; operands are VF's old value where VF is named. -/
def Obligations.AddWritesCarry : Prop :=
  RowDecodes 0x8004#16 0xF00F#16 (fun w => .addReg (fieldX w) (fieldY w)) ∧
  ∀ (x y : Reg) (s : State), ∃ t, exec (.addReg x y) s = .next t ∧
    SetsRegAndFlag x (s.reg x + s.reg y) (decide (255 < (s.reg x).toNat + (s.reg y).toNat)) s t

/-- R168, R170: SUB and SUBN write the wrapped difference, then VF = 1 exactly when the minuend is strictly greater. -/
def Obligations.SubtractWritesStrictFlag : Prop :=
  RowDecodes 0x8005#16 0xF00F#16 (fun w => .sub (fieldX w) (fieldY w)) ∧
  RowDecodes 0x8007#16 0xF00F#16 (fun w => .subn (fieldX w) (fieldY w)) ∧
  ∀ (x y : Reg) (s : State),
    (∃ t, exec (.sub x y) s = .next t ∧
      SetsRegAndFlag x (s.reg x - s.reg y) (decide ((s.reg y).toNat < (s.reg x).toNat)) s t) ∧
    (∃ t, exec (.subn x y) s = .next t ∧
      SetsRegAndFlag x (s.reg y - s.reg x) (decide ((s.reg x).toNat < (s.reg y).toNat)) s t)

/-- R169, R171: SHR and SHL shift Vx by one, then VF = the bit shifted out; `y` is ignored. -/
def Obligations.ShiftsWriteBitOut : Prop :=
  RowDecodes 0x8006#16 0xF00F#16 (fun w => .shr (fieldX w) (fieldY w)) ∧
  RowDecodes 0x800E#16 0xF00F#16 (fun w => .shl (fieldX w) (fieldY w)) ∧
  ∀ (x y : Reg) (s : State),
    (∃ t, exec (.shr x y) s = .next t ∧
      SetsRegAndFlag x (BitVec.ofNat 8 ((s.reg x).toNat / 2)) (decide ((s.reg x).toNat % 2 = 1)) s t) ∧
    (∃ t, exec (.shl x y) s = .next t ∧
      SetsRegAndFlag x (BitVec.ofNat 8 ((s.reg x).toNat * 2)) (decide (128 ≤ (s.reg x).toNat)) s t)

/-- R172: RND writes a byte with no bit outside `kk`: a draw masked by `kk`. That the draw is `Config.randByte` at the
model's own counter, which advances, is the model's form of the free draw (log 3); the statement holds whatever that
function is. -/
def Obligations.RandomByteIsMasked : Prop :=
  RowDecodes 0xC000#16 0xF000#16 (fun w => .rnd (fieldX w) (fieldKk w)) ∧
  ∀ (x : Reg) (kk : Byte) (s : State), ∃ t, exec (.rnd x kk) s = .next t ∧
    t.reg x = Config.randByte s.draws &&& kk ∧ t.reg x &&& ~~~kk = 0#8 ∧
    (∀ r : Reg, r ≠ x → t.reg r = s.reg r) ∧ t.pc = s.pc + 2#16 ∧ t.draws = s.draws + 1 ∧
    OnlyChanges [.v, .pc, .draws] s t

/-- R172: with `r` the byte drawn, whichever of the 256 it is, RND writes `r AND kk` to Vx and advances `pc` by 2, and
the rest of the tuple of R20 is unchanged; `kk = 0x00` gives 0x00 and no bit outside `kk` is 1. -/
def Obligations.RandomWritesTheDrawMasked : Prop :=
  RowDecodes 0xC000#16 0xF000#16 (fun w => .rnd (fieldX w) (fieldKk w)) ∧
  ∀ (r : Byte) (x : Reg) (kk : Byte) (c : CoreState), ∃ c', coreExec r (.rnd x kk) c = .next c' ∧
    c'.v[x.val] = r &&& kk ∧ c'.v[x.val] &&& ~~~kk = 0#8 ∧ (kk = 0x00#8 → c'.v[x.val] = 0x00#8) ∧
    c' = { c with v := c.v.set x.val (r &&& kk), pc := c.pc + 2#16 }

/-! ### Index register and memory -/

/-- R190, R191, R192: LD_I, ADD_I_VX (wrapping at 16 bits, no flag) and LD_F_VX (the exact product). -/
def Obligations.IndexRegisterWrites : Prop :=
  RowDecodes 0xA000#16 0xF000#16 (fun w => .ldI (fieldNnn w)) ∧
  RowDecodes 0xF01E#16 0xF0FF#16 (fun w => .addIVx (fieldX w)) ∧
  RowDecodes 0xF029#16 0xF0FF#16 (fun w => .ldFVx (fieldX w)) ∧
  (∀ (nnn : BitVec 12) (s : State), ∃ t, exec (.ldI nnn) s = .next t ∧
    t.i.toNat = nnn.toNat ∧ t.pc = s.pc + 2#16 ∧ OnlyChanges [.i, .pc] s t) ∧
  (∀ (x : Reg) (s : State),
    (∃ t, exec (.addIVx x) s = .next t ∧
      t.i.toNat = (s.i.toNat + (s.reg x).toNat) % 65536 ∧ t.pc = s.pc + 2#16 ∧ OnlyChanges [.i, .pc] s t) ∧
    (∃ t, exec (.ldFVx x) s = .next t ∧
      t.i.toNat = (s.reg x).toNat * 5 ∧ t.pc = s.pc + 2#16 ∧ OnlyChanges [.i, .pc] s t))

/-- R193: LD_B_VX stores the three decimal digits at I, I+1 and I+2, and no other byte changes; out of memory it raises
`AddressError(max(I, 4096))`. Memory is in the model's canonical form (log 4). -/
def Obligations.DecimalDigitsAreStored : Prop :=
  RowDecodes 0xF033#16 0xF0FF#16 (fun w => .ldBVx (fieldX w)) ∧
  (∀ (x : Reg) (s : State), memoryWf s.mem = true → s.addrI + 2 < 4096 → ∃ t, exec (.ldBVx x) s = .next t ∧
    (t.byte s.addrI).toNat = (s.reg x).toNat / 100 ∧
    (t.byte (s.addrI + 1)).toNat = (s.reg x).toNat / 10 % 10 ∧
    (t.byte (s.addrI + 2)).toNat = (s.reg x).toNat % 10 ∧
    (∀ a : Nat, a < s.addrI ∨ s.addrI + 2 < a → t.byte a = s.byte a) ∧
    t.pc = s.pc + 2#16 ∧ OnlyChanges [.mem, .pc] s t) ∧
  (∀ (x : Reg) (s : State), 4096 ≤ s.addrI + 2 →
    exec (.ldBVx x) s = .fault (.addressError (max s.addrI 4096) s.pc))

/-- R194: LD_MEM_VX stores V0 to Vx from I up, and no other byte changes; out of memory it raises
`AddressError(max(I, 4096))`. Memory is in the model's canonical form (log 4). -/
def Obligations.RegistersAreStored : Prop :=
  RowDecodes 0xF055#16 0xF0FF#16 (fun w => .ldMemVx (fieldX w)) ∧
  (∀ (x : Reg) (s : State), memoryWf s.mem = true → s.addrI + x.val < 4096 → ∃ t, exec (.ldMemVx x) s = .next t ∧
    (∀ r : Reg, r ≤ x → t.byte (s.addrI + r.val) = s.reg r) ∧
    (∀ a : Nat, a < s.addrI ∨ s.addrI + x.val < a → t.byte a = s.byte a) ∧
    t.pc = s.pc + 2#16 ∧ OnlyChanges [.mem, .pc] s t) ∧
  (∀ (x : Reg) (s : State), 4096 ≤ s.addrI + x.val →
    exec (.ldMemVx x) s = .fault (.addressError (max s.addrI 4096) s.pc))

/-- R195: LD_VX_MEM loads V0 to Vx from I up, and no other register changes; out of memory it raises
`AddressError(max(I, 4096))`. -/
def Obligations.RegistersAreLoaded : Prop :=
  RowDecodes 0xF065#16 0xF0FF#16 (fun w => .ldVxMem (fieldX w)) ∧
  (∀ (x : Reg) (s : State), s.addrI + x.val < 4096 → ∃ t, exec (.ldVxMem x) s = .next t ∧
    (∀ r : Reg, r ≤ x → t.reg r = s.byte (s.addrI + r.val)) ∧
    (∀ r : Reg, x < r → t.reg r = s.reg r) ∧
    t.pc = s.pc + 2#16 ∧ OnlyChanges [.v, .pc] s t) ∧
  (∀ (x : Reg) (s : State), 4096 ≤ s.addrI + x.val →
    exec (.ldVxMem x) s = .fault (.addressError (max s.addrI 4096) s.pc))

/-- R194, R195: what LD_MEM_VX stored, LD_VX_MEM with the same I and memory loads back. -/
def Obligations.StoredRegistersLoadBack : Prop :=
  ∀ (x : Reg) (s t u : State), memoryWf s.mem = true → exec (.ldMemVx x) s = .next t → u.i = t.i →
    (∀ a, u.byte a = t.byte a) →
    ∃ w, exec (.ldVxMem x) u = .next w ∧ (∀ r : Reg, r ≤ x → w.reg r = s.reg r) ∧
      (∀ r : Reg, x < r → w.reg r = u.reg r)

/-- R76, R312: a store of V0 and V1 over the very next instruction is what the next fetch sees. -/
def Obligations.StoreIsSeenByTheNextFetch : Prop :=
  ∀ (x : Reg) (s : State), memoryWf s.mem = true → 1 ≤ x.val → s.i = s.pc + 2#16 → s.addrI + x.val < 4096 →
    ∃ t, exec (.ldMemVx x) s = .next t ∧ fetch t = .ok (wordOfBytes (s.reg 0) (s.reg 1))

/-! ### Display -/

/-- R211, R213: CLS makes every pixel unlit and writes no register. -/
def Obligations.ClearUnlitsEveryPixel : Prop :=
  RowDecodes 0x00E0#16 0xFFFF#16 (fun _ => .cls) ∧
  ∀ s : State, ∃ t, exec .cls s = .next t ∧ (∀ px py, getPixel t.fb px py = false) ∧
    t.pc = s.pc + 2#16 ∧ OnlyChanges [.fb, .pc] s t

/-- R212, R214: DRW, whose draw is the loop of R212, XORs the sprite in memory at I, as a picture that wraps around both
edges, into the framebuffer; VF is 1 exactly when a lit pixel is covered by a 1 bit; with n = 0 nothing is drawn,
whatever I is; out of memory it raises `AddressError(max(I, 4096))`. -/
def Obligations.DrawXorsSpriteIntoDisplay : Prop :=
  RowDecodes 0xD000#16 0xF000#16 (fun w => .drw (fieldX w) (fieldY w) (fieldN w).toNat) ∧
  (∀ (x y : Reg) (n : Nat) (s : State), n < 16 → (n = 0 ∨ s.addrI + n ≤ 4096) →
    ∃ t, exec (.drw x y n) s = .next t ∧
      (∀ px py, getPixel t.fb px py =
        (getPixel s.fb px py ^^ spriteBit (s.reg x).toNat (s.reg y).toNat (spriteRows s n) px py)) ∧
      ((∃ px py, getPixel s.fb px py = true ∧
          spriteBit (s.reg x).toNat (s.reg y).toNat (spriteRows s n) px py = true) → t.reg 15 = 1#8) ∧
      ((∀ px py, getPixel s.fb px py = true →
          spriteBit (s.reg x).toNat (s.reg y).toNat (spriteRows s n) px py = false) → t.reg 15 = 0#8) ∧
      (∀ r : Reg, r ≠ 15 → t.reg r = s.reg r) ∧ t.pc = s.pc + 2#16 ∧ OnlyChanges [.fb, .v, .pc] s t) ∧
  (∀ (x y : Reg) (n : Nat) (s : State), 0 < n → 4096 < s.addrI + n →
    exec (.drw x y n) s = .fault (.addressError (max s.addrI 4096) s.pc))

/-- R215 (a), (c), (d) and what of (b) follows from R212: (a) one draw touches each pixel at most once, so no bit of the
sprite changes another's pixel and the order in which two bits are drawn does not matter; (b) drawing the
same sprite twice at the same place restores every pixel, and the second draw reports a collision exactly when the
sprite has a 1 bit over a pixel that was unlit before the first, so, where the first reports none, exactly when the
sprite has a 1 bit (log 12: R215 (b) says so of every framebuffer, which R212 does not bear out where every 1 bit of
the sprite falls on a lit pixel); (c) a draw on a clear framebuffer reports none; (d) a draw reports a collision
exactly when some pixel, one or many, went from lit to unlit. -/
def Obligations.SpriteWriterProperties : Prop :=
  (∀ x0 y0 r r' c c' : Nat, r < 15 → r' < 15 → c < 8 → c' < 8 → (x0 + c) % 64 = (x0 + c') % 64 →
    (y0 + r) % 32 = (y0 + r') % 32 → r = r' ∧ c = c') ∧
  (∀ (x0 y0 r r' c c' : Nat) (b b' : Bool) (d : Drawing), r < 15 → r' < 15 → c < 8 → c' < 8 → ¬ (r = r' ∧ c = c') →
    getPixel (drawBit x0 y0 r c b d).1 (Fin.ofNat 64 (x0 + c')) (Fin.ofNat 32 (y0 + r')) =
      getPixel d.1 (Fin.ofNat 64 (x0 + c')) (Fin.ofNat 32 (y0 + r')) ∧
    drawBit x0 y0 r c b (drawBit x0 y0 r' c' b' d) = drawBit x0 y0 r' c' b' (drawBit x0 y0 r c b d)) ∧
  (∀ (f : Framebuffer) (x0 y0 : Byte) (rows : List Byte), rows.length ≤ 15 →
    (drawSprite (drawSprite f x0 y0 rows).1 x0 y0 rows).1 = f ∧
    ((drawSprite (drawSprite f x0 y0 rows).1 x0 y0 rows).2 = true ↔
      ∃ px py, getPixel f px py = false ∧ spriteBit x0.toNat y0.toNat rows px py = true) ∧
    ((drawSprite f x0 y0 rows).2 = false →
      ((drawSprite (drawSprite f x0 y0 rows).1 x0 y0 rows).2 = true ↔ ∃ row ∈ rows, row ≠ 0#8))) ∧
  (∀ (x0 y0 : Byte) (rows : List Byte), rows.length ≤ 15 → (drawSprite Framebuffer.clear x0 y0 rows).2 = false) ∧
  (∀ (f : Framebuffer) (x0 y0 : Byte) (rows : List Byte), rows.length ≤ 15 →
    ((drawSprite f x0 y0 rows).2 = true ↔
      ∃ px py, getPixel f px py = true ∧ getPixel (drawSprite f x0 y0 rows).1 px py = false))

/-! ### Keypad -/

/-- R232, R233: SKP and SKNP skip by the level of the key Vx names, and raise `InvalidKey(V[x])` when it names none. -/
def Obligations.KeySkips : Prop :=
  RowDecodes 0xE09E#16 0xF0FF#16 (fun w => .skp (fieldX w)) ∧
  RowDecodes 0xE0A1#16 0xF0FF#16 (fun w => .sknp (fieldX w)) ∧
  (∀ (x : Reg) (s : State) (k : Fin 16), (s.reg x).toNat = k.val →
    (∃ t, exec (.skp x) s = .next t ∧ Skips (s.key k = true) s t) ∧
    (∃ t, exec (.sknp x) s = .next t ∧ Skips (s.key k = false) s t)) ∧
  (∀ (x : Reg) (s : State), 15 < (s.reg x).toNat →
    exec (.skp x) s = .fault (.invalidKey (s.reg x) s.pc) ∧ exec (.sknp x) s = .fault (.invalidKey (s.reg x) s.pc))

/-- R234: LD_VX_K begins the wait, goes on waiting, or takes the resolved key; a wait leaves `pc` and everything else
unchanged. -/
def Obligations.KeyWaitPollsTheLatch : Prop :=
  RowDecodes 0xF00A#16 0xF0FF#16 (fun w => .ldVxK (fieldX w)) ∧
  (∀ (x : Reg) (s : State), s.latch = .idle → ∃ t, exec (.ldVxK x) s = .next t ∧
    t.latch = .waiting ∧ OnlyChanges [.latch] s t) ∧
  (∀ (x : Reg) (s : State), s.latch = .waiting → ∃ t, exec (.ldVxK x) s = .next t ∧ OnlyChanges [] s t) ∧
  (∀ (x : Reg) (s : State) (k : Fin 16), s.latch = .resolved k → ∃ t, exec (.ldVxK x) s = .next t ∧
    (t.reg x).toNat = k.val ∧ (∀ r : Reg, r ≠ x → t.reg r = s.reg r) ∧ t.latch = .idle ∧ t.pc = s.pc + 2#16 ∧
    OnlyChanges [.v, .latch, .pc] s t)

/-- R230, R231: a key press sets the key's level and nothing else; a release clears it and resolves a waiting latch with
that key; an index outside the keypad is refused. -/
def Obligations.KeyEventsSetLevelsAndLatch : Prop :=
  (∀ (s : State) (k : Fin 16),
    (∃ t, keyPressed k.val s = .next t ∧ t.key k = true ∧ (∀ j : Fin 16, j ≠ k → t.key j = s.key j) ∧
      OnlyChanges [.keys] s t) ∧
    (∃ t, keyReleased k.val s = .next t ∧ t.key k = false ∧ (∀ j : Fin 16, j ≠ k → t.key j = s.key j) ∧
      (s.latch = .waiting → t.latch = .resolved k) ∧ (s.latch ≠ .waiting → t.latch = s.latch) ∧
      OnlyChanges [.keys, .latch] s t)) ∧
  (∀ (s : State) (k : Nat), 16 ≤ k →
    keyPressed k s = .refused (.keyIndexOutOfRange k) ∧ keyReleased k s = .refused (.keyIndexOutOfRange k))

/-- R235: an instruction changes the latch only if it is LD_VX_K, and then only from Idle to Waiting or from Resolved to
Idle; a key event changes it only if it is a release, and then only from Waiting to Resolved of the released key. -/
def Obligations.LatchTransitions : Prop :=
  (∀ (i : Instr) (s t : State), exec i s = .next t → t.latch ≠ s.latch →
    (∃ x, i = .ldVxK x) ∧
    ((s.latch = .idle ∧ t.latch = .waiting) ∨ ((∃ k, s.latch = .resolved k) ∧ t.latch = .idle))) ∧
  (∀ (s t : State) (k : Nat), keyPressed k s = .next t → t.latch = s.latch) ∧
  (∀ (s t : State) (k : Fin 16), keyReleased k.val s = .next t → t.latch ≠ s.latch →
    s.latch = .waiting ∧ t.latch = .resolved k)

/-- R131, R234: from Idle, a step, a press, a release and a step complete the wait with the released key; a press and a
release before the first step do not count. -/
def Obligations.WaitEndsWithTheReleaseAfterItBegan : Prop :=
  ∀ (s : State) (x : Reg) (k : Fin 16), fetchInstr s = .ok (.ldVxK x) → s.latch = .idle →
    (∃ t, hostRun [.step, .keyPressed k.val, .keyReleased k.val, .step] s = some t ∧
      (t.reg x).toNat = k.val ∧ t.pc = s.pc + 2#16 ∧ t.latch = .idle ∧ t.key k = false) ∧
    (∃ t, hostRun [.keyPressed k.val, .keyReleased k.val, .step] s = some t ∧
      t.pc = s.pc ∧ t.latch = .waiting ∧ ∀ r : Reg, t.reg r = s.reg r)

/-! ### Timers -/

/-- R251, R252, R253: LD_VX_DT reads DT as the timer phase of its step left it; LD_DT_VX and LD_ST_VX overwrite the
decremented value. -/
def Obligations.TimerInstructions : Prop :=
  RowDecodes 0xF007#16 0xF0FF#16 (fun w => .ldVxDt (fieldX w)) ∧
  RowDecodes 0xF015#16 0xF0FF#16 (fun w => .ldDtVx (fieldX w)) ∧
  RowDecodes 0xF018#16 0xF0FF#16 (fun w => .ldStVx (fieldX w)) ∧
  (∀ (x : Reg) (s : State),
    (∃ t, exec (.ldVxDt x) s = .next t ∧ SetsReg x s.dt s t) ∧
    (∃ t, exec (.ldDtVx x) s = .next t ∧ t.dt = s.reg x ∧ t.pc = s.pc + 2#16 ∧ OnlyChanges [.dt, .pc] s t) ∧
    (∃ t, exec (.ldStVx x) s = .next t ∧ t.st = s.reg x ∧ t.pc = s.pc + 2#16 ∧ OnlyChanges [.st, .pc] s t)) ∧
  (∀ (x : Reg) (s : State), fetchInstr s = .ok (.ldVxDt x) → ∃ t, step s = .next t ∧
    (t.reg x).toNat = s.dt.toNat - 1 ∧ t.dt.toNat = s.dt.toNat - 1) ∧
  (∀ (x : Reg) (s : State), fetchInstr s = .ok (.ldDtVx x) → ∃ t, step s = .next t ∧ t.dt = s.reg x) ∧
  (∀ (x : Reg) (s : State), fetchInstr s = .ok (.ldStVx x) → ∃ t, step s = .next t ∧ t.st = s.reg x)

/-- R254: after a timer is written with v, and while no later instruction writes it, its value after k further
successful steps is max(v − k, 0). -/
def Obligations.TimersCountSteps : Prop :=
  (∀ (x : Reg) (k : Nat) (s t u : State), fetchInstr s = .ok (.ldDtVx x) → step s = .next t →
    stepsWithout writesDt k t = some u → u.dt.toNat = (s.reg x).toNat - k) ∧
  (∀ (x : Reg) (k : Nat) (s t u : State), fetchInstr s = .ok (.ldStVx x) → step s = .next t →
    stepsWithout writesSt k t = some u → u.st.toNat = (s.reg x).toNat - k)

/-- R256: the sound output is true exactly when ST > 0, and the read changes nothing. -/
def Obligations.SoundActiveWhileTimerRuns : Prop :=
  ∀ s : State, (soundActive s = true ↔ 0 < s.st.toNat) ∧
    hostCall .soundActive s = .next (s, .bit (soundActive s))

/-! ### Host interface and load -/

/-- R210, R216: the host reads the framebuffer row-major, pixel by pixel or whole, without changing any state; a read
out of range is refused; only CLS and DRW write a pixel. -/
def Obligations.HostReadsFramebufferRowMajor : Prop :=
  (∀ s : State, (pixels s).length = 2048 ∧ hostCall .display s = .next (s, .grid (pixels s))) ∧
  (∀ (s : State) (x : Fin 64) (y : Fin 32), (pixels s)[y.val * 64 + x.val]? = some (getPixel s.fb x y) ∧
    hostCall (.pixel x.val y.val) s = .next (s, .bit (getPixel s.fb x y))) ∧
  (∀ (s : State) (x y : Nat), ¬ (x < 64 ∧ y < 32) → hostCall (.pixel x y) s = .refused (.pixelOutOfRange x y)) ∧
  (∀ (i : Instr) (s t : State) (x : Fin 64) (y : Fin 32), exec i s = .next t → getPixel t.fb x y ≠ getPixel s.fb x y →
    i = .cls ∨ ∃ rx ry n, i = .drw rx ry n)

/-- R39, R277, R300: `load` builds the reset state with the font at 0x000 and the ROM at 0x200, or refuses a ROM of more
than 3584 bytes. -/
def Obligations.LoadBuildsTheResetState : Prop :=
  (∀ (draws : Nat) (rom : List Byte), rom.length ≤ 3584 → ∃ t, load draws rom = .next t ∧
    (∀ a : Nat, a < 80 → t.byte a = Config.font a) ∧
    (∀ a : Nat, 80 ≤ a → a < 0x200 → t.byte a = 0#8) ∧
    (∀ k : Nat, k < rom.length → t.byte (0x200 + k) = rom.getD k 0#8) ∧
    (∀ a : Nat, 0x200 + rom.length ≤ a → a < 4096 → t.byte a = 0#8) ∧
    (∀ r : Reg, t.reg r = 0#8) ∧ t.i = 0#16 ∧ t.pc = 0x200#16 ∧ t.sp = 0#8 ∧ (∀ j : Nat, t.slot j = 0#16) ∧
    t.dt = 0#8 ∧ t.st = 0#8 ∧ (∀ px py, getPixel t.fb px py = false) ∧ (∀ k : Fin 16, t.key k = false) ∧
    t.latch = .idle) ∧
  (∀ (draws : Nat) (rom : List Byte), 3584 < rom.length → load draws rom = .fault (.loadError rom.length))

/-- R39, R300: the state after reset is that of a load of an empty ROM: the values the spec gives. -/
def Obligations.ResetIsAnEmptyLoad : Prop :=
  load State.reset.draws [] = .next State.reset ∧
  (∀ a : Nat, a < 80 → State.reset.byte a = Config.font a) ∧ (∀ a : Nat, 80 ≤ a → State.reset.byte a = 0#8) ∧
  (∀ r : Reg, State.reset.reg r = 0#8) ∧ State.reset.i = 0#16 ∧ State.reset.pc = 0x200#16 ∧
  State.reset.sp = 0#8 ∧ (∀ j : Nat, State.reset.slot j = 0#16) ∧ State.reset.dt = 0#8 ∧ State.reset.st = 0#8 ∧
  (∀ px py, getPixel State.reset.fb px py = false) ∧ (∀ k : Fin 16, State.reset.key k = false) ∧
  State.reset.latch = .idle

/-- R301: a `load` while an engine exists replaces it and keeps nothing of it: the new tuple of R20 is the same whatever
the old engine was. Only `draws`, the model's own place in the random input (log 10), goes on. -/
def Obligations.LoadKeepsNothingOfTheOldEngine : Prop :=
  ∀ (rom : List Byte) (s s' t : State) (r : HostReply), hostCall (.load rom) s = .next (t, r) →
    ∃ t', hostCall (.load rom) s' = .next (t', r) ∧ t'.toCoreState = t.toCoreState ∧ OnlyChanges [.draws] t t' ∧
      t'.pc = 0x200#16 ∧ t'.latch = .idle ∧ ∀ k : Fin 16, t'.key k = false
end

