-- ==== Sys2Proof/Laws/Decode.lean ====
section
/-! SUPPORT. The words of each format as numbers, the fields cut from them, and what each mask of the opcode map keeps
(spec/30_encoding.md R91, R93, R95): with these a claim about the decoder or the encoder is arithmetic. -/

namespace Sys2Proof

theorem toNat_append_eq {n m : Nat} (a : BitVec n) (b : BitVec m) :
    (a ++ b).toNat = a.toNat * 2 ^ m + b.toNat := by
  rw [BitVec.toNat_append, ← Nat.shiftLeft_add_eq_or_of_lt b.isLt, Nat.shiftLeft_eq]

/-! ### Formats as numbers -/

theorem formatA_toNat (op : BitVec 4) (nnn : BitVec 12) : (formatA op nnn).toNat = op.toNat * 4096 + nnn.toNat :=
  toNat_append_eq op nnn

theorem formatXK_toNat (op : BitVec 4) (x : Reg) (kk : Byte) :
    (formatXK op x kk).toNat = op.toNat * 4096 + x.val * 256 + kk.toNat := by
  simp only [formatXK, toNat_append_eq, BitVec.toNat_ofFin]
  omega

theorem formatXS_toNat (op : BitVec 4) (x : Reg) (sub : Byte) :
    (formatXS op x sub).toNat = op.toNat * 4096 + x.val * 256 + sub.toNat := formatXK_toNat op x sub

theorem formatXYN_toNat (op : BitVec 4) (x y : Reg) (n : BitVec 4) :
    (formatXYN op x y n).toNat = op.toNat * 4096 + x.val * 256 + y.val * 16 + n.toNat := by
  simp only [formatXYN, toNat_append_eq, BitVec.toNat_ofFin]
  omega

theorem wordOfBytes_toNat (hi lo : Byte) : (wordOfBytes hi lo).toNat = hi.toNat * 256 + lo.toNat :=
  toNat_append_eq hi lo

/-! ### Fields as numbers (R91) -/

theorem fieldOp_toNat (w : Word) : (fieldOp w).toNat = w.toNat / 4096 := by
  simp only [fieldOp, BitVec.extractLsb'_toNat, Nat.shiftRight_eq_div_pow]
  omega

theorem fieldX_val (w : Word) : (fieldX w).val = w.toNat / 256 % 16 := by
  show (w.extractLsb' 8 4).toNat = _
  simp only [BitVec.extractLsb'_toNat, Nat.shiftRight_eq_div_pow]

theorem fieldY_val (w : Word) : (fieldY w).val = w.toNat / 16 % 16 := by
  show (w.extractLsb' 4 4).toNat = _
  simp only [BitVec.extractLsb'_toNat, Nat.shiftRight_eq_div_pow]

theorem fieldN_toNat (w : Word) : (fieldN w).toNat = w.toNat % 16 := by
  simp only [fieldN, BitVec.extractLsb'_toNat, Nat.shiftRight_eq_div_pow]
  omega

theorem fieldKk_toNat (w : Word) : (fieldKk w).toNat = w.toNat % 256 := by
  simp only [fieldKk, BitVec.extractLsb'_toNat, Nat.shiftRight_eq_div_pow]
  omega

theorem fieldNnn_toNat (w : Word) : (fieldNnn w).toNat = w.toNat % 4096 := by
  simp only [fieldNnn, BitVec.extractLsb'_toNat, Nat.shiftRight_eq_div_pow]
  omega

theorem highByte_toNat (w : Word) : (highByte w).toNat = w.toNat / 256 := by
  simp only [highByte, BitVec.extractLsb'_toNat, Nat.shiftRight_eq_div_pow]
  omega

theorem lowByte_toNat (w : Word) : (lowByte w).toNat = w.toNat % 256 := fieldKk_toNat w

/-- The two bytes of a word, put together again (R65). -/
theorem wordOfBytes_bytes (w : Word) : wordOfBytes (highByte w) (lowByte w) = w := by
  apply BitVec.eq_of_toNat_eq
  rw [wordOfBytes_toNat, highByte_toNat, lowByte_toNat]
  omega

/-! ### Fields of a format -/

@[simp] theorem fieldOp_formatA (op : BitVec 4) (nnn : BitVec 12) : fieldOp (formatA op nnn) = op :=
  BitVec.eq_of_toNat_eq (by rw [fieldOp_toNat, formatA_toNat]; omega)

@[simp] theorem fieldNnn_formatA (op : BitVec 4) (nnn : BitVec 12) : fieldNnn (formatA op nnn) = nnn :=
  BitVec.eq_of_toNat_eq (by rw [fieldNnn_toNat, formatA_toNat]; omega)

@[simp] theorem fieldOp_formatXK (op : BitVec 4) (x : Reg) (kk : Byte) : fieldOp (formatXK op x kk) = op :=
  BitVec.eq_of_toNat_eq (by rw [fieldOp_toNat, formatXK_toNat]; omega)

@[simp] theorem fieldX_formatXK (op : BitVec 4) (x : Reg) (kk : Byte) : fieldX (formatXK op x kk) = x :=
  Fin.ext (by rw [fieldX_val, formatXK_toNat]; omega)

@[simp] theorem fieldKk_formatXK (op : BitVec 4) (x : Reg) (kk : Byte) : fieldKk (formatXK op x kk) = kk :=
  BitVec.eq_of_toNat_eq (by rw [fieldKk_toNat, formatXK_toNat]; omega)

@[simp] theorem fieldOp_formatXS (op : BitVec 4) (x : Reg) (sub : Byte) : fieldOp (formatXS op x sub) = op :=
  fieldOp_formatXK op x sub

@[simp] theorem fieldX_formatXS (op : BitVec 4) (x : Reg) (sub : Byte) : fieldX (formatXS op x sub) = x :=
  fieldX_formatXK op x sub

@[simp] theorem fieldKk_formatXS (op : BitVec 4) (x : Reg) (sub : Byte) : fieldKk (formatXS op x sub) = sub :=
  fieldKk_formatXK op x sub

@[simp] theorem fieldOp_formatXYN (op : BitVec 4) (x y : Reg) (n : BitVec 4) : fieldOp (formatXYN op x y n) = op :=
  BitVec.eq_of_toNat_eq (by rw [fieldOp_toNat, formatXYN_toNat]; omega)

@[simp] theorem fieldX_formatXYN (op : BitVec 4) (x y : Reg) (n : BitVec 4) : fieldX (formatXYN op x y n) = x :=
  Fin.ext (by rw [fieldX_val, formatXYN_toNat]; omega)

@[simp] theorem fieldY_formatXYN (op : BitVec 4) (x y : Reg) (n : BitVec 4) : fieldY (formatXYN op x y n) = y :=
  Fin.ext (by rw [fieldY_val, formatXYN_toNat]; omega)

@[simp] theorem fieldN_formatXYN (op : BitVec 4) (x y : Reg) (n : BitVec 4) : fieldN (formatXYN op x y n) = n :=
  BitVec.eq_of_toNat_eq (by rw [fieldN_toNat, formatXYN_toNat]; omega)

/-! ### A word is put together from its fields -/

theorem formatA_fields (w : Word) : formatA (fieldOp w) (fieldNnn w) = w :=
  BitVec.eq_of_toNat_eq (by rw [formatA_toNat, fieldOp_toNat, fieldNnn_toNat]; omega)

theorem formatXK_fields (w : Word) : formatXK (fieldOp w) (fieldX w) (fieldKk w) = w :=
  BitVec.eq_of_toNat_eq (by rw [formatXK_toNat, fieldOp_toNat, fieldX_val, fieldKk_toNat]; omega)

theorem formatXS_fields (w : Word) : formatXS (fieldOp w) (fieldX w) (fieldKk w) = w := formatXK_fields w

theorem formatXYN_fields (w : Word) : formatXYN (fieldOp w) (fieldX w) (fieldY w) (fieldN w) = w :=
  BitVec.eq_of_toNat_eq
    (by rw [formatXYN_toNat, fieldOp_toNat, fieldX_val, fieldY_val, fieldN_toNat]; omega)

/-! ### What the masks of the opcode map keep (R95) -/

theorem nibble_and_F (a : BitVec 4) : a &&& 0xF#4 = a := by revert a; decide

theorem byte_and_FF (a : Byte) : a &&& 0xFF#8 = a := by revert a; decide

theorem formatA_mask (op : BitVec 4) (nnn : BitVec 12) : formatA op nnn &&& 0xF000#16 = formatA op 0#12 := by
  rw [show (0xF000#16) = formatA 0xF#4 0#12 from rfl]
  unfold formatA
  rw [BitVec.and_append, nibble_and_F, BitVec.and_zero]

theorem formatXYN_mask (op : BitVec 4) (x y : Reg) (n : BitVec 4) :
    formatXYN op x y n &&& 0xF00F#16 = formatXYN op 0 0 n := by
  rw [show (0xF00F#16) = formatXYN 0xF#4 0 0 0xF#4 from rfl]
  unfold formatXYN
  rw [BitVec.and_append, BitVec.and_append, BitVec.and_append, nibble_and_F, nibble_and_F,
    show BitVec.ofFin (w := 4) 0 = 0#4 from rfl, BitVec.and_zero, BitVec.and_zero]

theorem formatXS_mask (op : BitVec 4) (x : Reg) (sub : Byte) :
    formatXS op x sub &&& 0xF0FF#16 = formatXS op 0 sub := by
  rw [show (0xF0FF#16) = formatXS 0xF#4 0 0xFF#8 from rfl]
  unfold formatXS
  rw [BitVec.and_append, BitVec.and_append, nibble_and_F, byte_and_FF,
    show BitVec.ofFin (w := 4) 0 = 0#4 from rfl, BitVec.and_zero]

/-- The mask 0xF000 keeps the opcode family. -/
theorem mask_F000_iff (w : Word) (op : BitVec 4) : w &&& 0xF000#16 = formatA op 0#12 ↔ fieldOp w = op := by
  conv => lhs; rw [← formatA_fields w, formatA_mask]
  exact ⟨fun h => by rw [← fieldOp_formatA (fieldOp w) 0#12, h, fieldOp_formatA], fun h => by rw [h]⟩

/-- The mask 0xF00F keeps the opcode family and the low nibble. -/
theorem mask_F00F_iff (w : Word) (op n : BitVec 4) :
    w &&& 0xF00F#16 = formatXYN op 0 0 n ↔ fieldOp w = op ∧ fieldN w = n := by
  conv => lhs; rw [← formatXYN_fields w, formatXYN_mask]
  refine ⟨fun h => ⟨?_, ?_⟩, fun h => by rw [h.1, h.2]⟩
  · rw [← fieldOp_formatXYN (fieldOp w) 0 0 (fieldN w), h, fieldOp_formatXYN]
  · rw [← fieldN_formatXYN (fieldOp w) 0 0 (fieldN w), h, fieldN_formatXYN]

/-- The mask 0xF0FF keeps the opcode family and the low byte. -/
theorem mask_F0FF_iff (w : Word) (op : BitVec 4) (sub : Byte) :
    w &&& 0xF0FF#16 = formatXS op 0 sub ↔ fieldOp w = op ∧ fieldKk w = sub := by
  conv => lhs; rw [← formatXS_fields w, formatXS_mask]
  refine ⟨fun h => ⟨?_, ?_⟩, fun h => by rw [h.1, h.2]⟩
  · rw [← fieldOp_formatXS (fieldOp w) 0 (fieldKk w), h, fieldOp_formatXS]
  · rw [← fieldKk_formatXS (fieldOp w) 0 (fieldKk w), h, fieldKk_formatXS]

/-- The mask 0xFFFF keeps the whole word. -/
theorem mask_FFFF (w : Word) : w &&& 0xFFFF#16 = w := by
  show w &&& BitVec.allOnes 16 = w
  exact BitVec.and_allOnes

/-! ### Rows of the opcode map and the decoder -/

/-- A nibble is one of sixteen. -/
theorem nibble_cases (b : BitVec 4) :
    b = 0x0#4 ∨ b = 0x1#4 ∨ b = 0x2#4 ∨ b = 0x3#4 ∨ b = 0x4#4 ∨ b = 0x5#4 ∨ b = 0x6#4 ∨ b = 0x7#4 ∨ b = 0x8#4 ∨
    b = 0x9#4 ∨ b = 0xA#4 ∨ b = 0xB#4 ∨ b = 0xC#4 ∨ b = 0xD#4 ∨ b = 0xE#4 ∨ b = 0xF#4 := by
  revert b; decide

/-- The decoder rejects a word by that word's name (R98). -/
theorem decode_reject {w : Word} {r : DecodeReject} (h : decode w = .error r) : r = .illegalWord w := by
  unfold decode decodeFamily0 decodeFamily8 decodeFamilyE decodeFamilyF at h
  rcases nibble_cases (fieldOp w) with
    ho | ho | ho | ho | ho | ho | ho | ho | ho | ho | ho | ho | ho | ho | ho | ho
  all_goals simp [ho] at h
  all_goals (repeat' split at h)
  all_goals simp_all

open Machine in
/-- A row with mask 0xF000 decodes when its family does. -/
theorem rowDecodes_F000 {f : Word → Instr} (op : BitVec 4) (h : ∀ w, fieldOp w = op → decode w = .ok (f w)) :
    RowDecodes (formatA op 0#12) 0xF000#16 f := fun w hw => h w ((mask_F000_iff w op).1 hw)

open Machine in
/-- A row with mask 0xF00F decodes when its family and low nibble do. -/
theorem rowDecodes_F00F {f : Word → Instr} (op n : BitVec 4)
    (h : ∀ w, fieldOp w = op → fieldN w = n → decode w = .ok (f w)) :
    RowDecodes (formatXYN op 0 0 n) 0xF00F#16 f :=
  fun w hw => h w ((mask_F00F_iff w op n).1 hw).1 ((mask_F00F_iff w op n).1 hw).2

open Machine in
/-- A row with mask 0xF0FF decodes when its family and low byte do. -/
theorem rowDecodes_F0FF {f : Word → Instr} (op : BitVec 4) (kk : Byte)
    (h : ∀ w, fieldOp w = op → fieldKk w = kk → decode w = .ok (f w)) :
    RowDecodes (formatXS op 0 kk) 0xF0FF#16 f :=
  fun w hw => h w ((mask_F0FF_iff w op kk).1 hw).1 ((mask_F0FF_iff w op kk).1 hw).2

open Machine in
/-- A row with mask 0xFFFF decodes when its one word does. -/
theorem rowDecodes_FFFF {f : Word → Instr} (p : Word) (h : decode p = .ok (f p)) : RowDecodes p 0xFFFF#16 f :=
  fun w hw => by rw [mask_FFFF] at hw; subst hw; exact h

end Sys2Proof
end

