-- ==== Sys2Proof/Laws/Display.lean ====
section
/-! SUPPORT. The sprite primitive as a picture (spec/44_display.md R212): what each pixel and the collision result are
after a draw, by one lemma per loop: bit, row, rows, sprite. -/

namespace Sys2Proof.Machine

theorem getPixel_setPixel (f : Framebuffer) (x px : Fin 64) (y py : Fin 32) (b : Bool) :
    getPixel (setPixel f x y b) px py = if px = x ∧ py = y then b else getPixel f px py := by
  unfold getPixel setPixel
  by_cases hy : y.val = py.val
  · have : py = y := Fin.ext hy.symm
    subst this
    simp [Vector.getElem_set, Fin.ext_iff, eq_comm]
  · have : ¬ py = y := fun h => hy (by rw [h])
    simp [hy, this]

theorem getPixel_clear (px : Fin 64) (py : Fin 32) : getPixel Framebuffer.clear px py = false := by
  simp [getPixel, Framebuffer.clear]

/-- Framebuffers that agree on every pixel are equal. -/
theorem framebuffer_ext {f g : Framebuffer} (h : ∀ px py, getPixel f px py = getPixel g px py) : f = g := by
  apply Vector.ext
  intro y hy
  apply Vector.ext
  intro x hx
  exact h ⟨x, hx⟩ ⟨y, hy⟩

/-- Column `px` is sprite column `c` exactly when the loop's column `c` falls on it. -/
theorem spriteCol_eq_iff (x0 c : Nat) (px : Fin 64) (hc : c < 64) :
    px = Fin.ofNat 64 (x0 + c) ↔ spriteCol x0 px = c := by
  rw [Fin.ext_iff]
  simp only [Fin.ofNat, spriteCol]
  omega

/-- Row `py` is sprite row `r` exactly when the loop's row `r` falls on it. -/
theorem spriteRow_eq_iff (y0 r : Nat) (py : Fin 32) (hr : r < 32) :
    py = Fin.ofNat 32 (y0 + r) ↔ spriteRow y0 py = r := by
  rw [Fin.ext_iff]
  simp only [Fin.ofNat, spriteRow]
  omega

/-- The pixel that sprite column `c` and row `r` fall on. -/
theorem spriteCol_ofNat (x0 c : Nat) (hc : c < 64) : spriteCol x0 (Fin.ofNat 64 (x0 + c)) = c :=
  (spriteCol_eq_iff x0 c _ hc).1 rfl

theorem spriteRow_ofNat (y0 r : Nat) (hr : r < 32) : spriteRow y0 (Fin.ofNat 32 (y0 + r)) = r :=
  (spriteRow_eq_iff y0 r _ hr).1 rfl

theorem drawBit_pixel (x0 y0 r c : Nat) (bit : Bool) (d : Drawing) (px : Fin 64) (py : Fin 32) (hc : c < 64)
    (hr : r < 32) :
    getPixel (drawBit x0 y0 r c bit d).1 px py =
      (getPixel d.1 px py ^^ (decide (spriteCol x0 px = c ∧ spriteRow y0 py = r) && bit)) := by
  unfold drawBit
  cases bit with
  | false => simp
  | true =>
    simp only [if_true, getPixel_setPixel, spriteCol_eq_iff x0 c px hc, spriteRow_eq_iff y0 r py hr]
    by_cases h : spriteCol x0 px = c ∧ spriteRow y0 py = r
    · have hx := (spriteCol_eq_iff x0 c px hc).2 h.1
      have hy := (spriteRow_eq_iff y0 r py hr).2 h.2
      rw [← hx, ← hy]
      simp [h]
    · simp [h]

theorem drawBit_collision (x0 y0 r c : Nat) (bit : Bool) (d : Drawing) :
    (drawBit x0 y0 r c bit d).2 =
      (d.2 || (bit && getPixel d.1 (Fin.ofNat 64 (x0 + c)) (Fin.ofNat 32 (y0 + r)))) := by
  unfold drawBit
  cases bit <;> simp

/-- The first `k` columns of a row, for `k ≤ 8`. -/
theorem drawColumns_spec (x0 y0 r : Nat) (row : Byte) (d : Drawing) (hr : r < 32) (k : Nat) (hk : k ≤ 8) :
    let e := (List.range k).foldl (fun d c => drawBit x0 y0 r c (row.getLsbD (7 - c)) d) d
    (∀ px py, getPixel e.1 px py =
      (getPixel d.1 px py ^^
        (decide (spriteCol x0 px < k ∧ spriteRow y0 py = r) && row.getLsbD (7 - spriteCol x0 px)))) ∧
    (e.2 = true ↔ d.2 = true ∨ ∃ px py, spriteCol x0 px < k ∧ spriteRow y0 py = r ∧
      row.getLsbD (7 - spriteCol x0 px) = true ∧ getPixel d.1 px py = true) := by
  induction k with
  | zero => simp
  | succ k ih =>
    obtain ⟨ihp, ihc⟩ := ih (by omega)
    rw [List.range_succ, List.foldl_append]
    simp only [List.foldl_cons, List.foldl_nil]
    refine ⟨fun px py => ?_, ?_⟩
    · rw [drawBit_pixel _ _ _ _ _ _ _ _ (by omega) hr, ihp]
      by_cases hc : spriteCol x0 px = k
      · simp [hc]
      · have : spriteCol x0 px < k + 1 ↔ spriteCol x0 px < k := by omega
        simp [hc, this]
    · rw [drawBit_collision, Bool.or_eq_true, ihc, Bool.and_eq_true, ihp, spriteCol_ofNat x0 k (by omega)]
      simp only [Nat.lt_irrefl, false_and, decide_false, Bool.false_and, Bool.bne_false]
      constructor
      · rintro ((h | ⟨px, py, h1, h2, h3, h4⟩) | ⟨h1, h2⟩)
        · exact .inl h
        · exact .inr ⟨px, py, by omega, h2, h3, h4⟩
        · exact .inr ⟨_, _, by rw [spriteCol_ofNat x0 k (by omega)]; omega, spriteRow_ofNat y0 r hr,
            by rw [spriteCol_ofNat x0 k (by omega)]; exact h1, h2⟩
      · rintro (h | ⟨px, py, h1, h2, h3, h4⟩)
        · exact .inl (.inl h)
        · by_cases hc : spriteCol x0 px = k
          · refine .inr ⟨by rwa [hc] at h3, ?_⟩
            rwa [← (spriteCol_eq_iff x0 k px (by omega)).2 hc, ← (spriteRow_eq_iff y0 r py hr).2 h2]
          · exact .inl (.inr ⟨px, py, by omega, h2, h3, h4⟩)

/-- The rows from row `r` on, for a sprite that ends within 32 rows. -/
theorem drawRows_spec (x0 y0 r : Nat) (rows : List Byte) (d : Drawing) (hr : r + rows.length ≤ 32) :
    let e := drawRows x0 y0 r rows d
    let bit := fun (px : Fin 64) (py : Fin 32) =>
      decide (spriteCol x0 px < 8 ∧ r ≤ spriteRow y0 py) &&
        (rows.getD (spriteRow y0 py - r) 0#8).getLsbD (7 - spriteCol x0 px)
    (∀ px py, getPixel e.1 px py = (getPixel d.1 px py ^^ bit px py)) ∧
    (e.2 = true ↔ d.2 = true ∨ ∃ px py, bit px py = true ∧ getPixel d.1 px py = true) := by
  induction rows generalizing r d with
  | nil => simp [drawRows]
  | cons row rows ih =>
    simp only [List.length_cons] at hr
    obtain ⟨ihp, ihc⟩ := ih (r + 1) (drawRow x0 y0 r row d) (by omega)
    obtain ⟨hp, hc⟩ := drawColumns_spec x0 y0 r row d (by omega) 8 (by omega)
    have hp' : ∀ px py, getPixel (drawRow x0 y0 r row d).1 px py = _ := hp
    have hc' : (drawRow x0 y0 r row d).2 = true ↔ _ := hc
    simp only [drawRows]
    refine ⟨fun px py => ?_, ?_⟩
    · rw [ihp, hp']
      rcases Nat.lt_trichotomy (spriteRow y0 py) r with h | h | h
      · simp [show ¬ spriteRow y0 py = r by omega, show ¬ r + 1 ≤ spriteRow y0 py by omega,
          show ¬ r ≤ spriteRow y0 py by omega]
      · simp [h]
      · have hd : spriteRow y0 py - r = (spriteRow y0 py - (r + 1)) + 1 := by omega
        simp only [hd, List.getD_cons_succ]
        simp [show ¬ spriteRow y0 py = r by omega, show r + 1 ≤ spriteRow y0 py by omega,
          show r ≤ spriteRow y0 py by omega]
    · rw [ihc, hc']
      constructor
      · rintro ((h | ⟨px, py, h1, h2, h3, h4⟩) | ⟨px, py, h1, h2⟩)
        · exact .inl h
        · exact .inr ⟨px, py, by simp [h1, h2, h3], h4⟩
        · rw [hp'] at h2
          simp only [Bool.and_eq_true, decide_eq_true_eq] at h1
          obtain ⟨⟨hx, hy⟩, hb⟩ := h1
          have hd : spriteRow y0 py - r = (spriteRow y0 py - (r + 1)) + 1 := by omega
          refine .inr ⟨px, py, ?_, ?_⟩
          · rw [hd, List.getD_cons_succ]
            simp only [Bool.and_eq_true, decide_eq_true_eq]
            exact ⟨⟨hx, by omega⟩, hb⟩
          · simpa [show ¬ spriteRow y0 py = r by omega] using h2
      · rintro (h | ⟨px, py, h1, h2⟩)
        · exact .inl (.inl h)
        · simp only [Bool.and_eq_true, decide_eq_true_eq] at h1
          obtain ⟨⟨hx, hy⟩, hb⟩ := h1
          by_cases he : spriteRow y0 py = r
          · refine .inl (.inr ⟨px, py, hx, he, ?_, h2⟩)
            simpa [he] using hb
          · have hd : spriteRow y0 py - r = (spriteRow y0 py - (r + 1)) + 1 := by omega
            rw [hd, List.getD_cons_succ] at hb
            refine .inr ⟨px, py, ?_, ?_⟩
            · simp only [Bool.and_eq_true, decide_eq_true_eq]
              exact ⟨⟨hx, by omega⟩, hb⟩
            · rw [hp']; simp [he, h2]

/-- Every pixel after a sprite of at most 32 rows is drawn: its old value, inverted where the sprite has a 1 (R212). -/
theorem drawSprite_pixel (f : Framebuffer) (x0 y0 : Byte) (rows : List Byte) (h : rows.length ≤ 32) (px : Fin 64)
    (py : Fin 32) :
    getPixel (drawSprite f x0 y0 rows).1 px py = (getPixel f px py ^^ spriteBit x0.toNat y0.toNat rows px py) := by
  have := (drawRows_spec x0.toNat y0.toNat 0 rows (f, false) (by omega)).1 px py
  simpa [drawSprite, spriteBit] using this

/-- The collision result: some pixel was lit where the sprite has a 1 (R212). -/
theorem drawSprite_collision (f : Framebuffer) (x0 y0 : Byte) (rows : List Byte) (h : rows.length ≤ 32) :
    (drawSprite f x0 y0 rows).2 = true ↔
      ∃ px py, spriteBit x0.toNat y0.toNat rows px py = true ∧ getPixel f px py = true := by
  have := (drawRows_spec x0.toNat y0.toNat 0 rows (f, false) (by omega)).2
  simpa [drawSprite, spriteBit] using this

end Sys2Proof.Machine
end

