-- ==== Sys2Proof/Laws/Memory.lean ====
section
/-! SUPPORT. Laws of memory: every operation keeps the canonical form, a read gives the last byte stored there, and
memories in canonical form that read alike are equal. -/

namespace Sys2Proof.Machine

/-- The canonical form above an address is one above any lower address. -/
theorem memWfFrom_mono {lo lo' : Nat} {m : Memory} (h : memWfFrom lo m = true) (hle : lo' ≤ lo) :
    memWfFrom lo' m = true := by
  cases m with
  | nil => rfl
  | cons c m =>
    simp only [memWfFrom, Bool.and_eq_true, decide_eq_true_eq] at h ⊢
    exact ⟨⟨⟨by omega, h.1.1.2⟩, h.1.2⟩, h.2⟩

/-- Below its first cell memory reads as unlisted. -/
theorem memGet_below {lo a : Nat} {m : Memory} (h : memWfFrom lo m = true) (ha : a < lo) :
    memGet m a = unlistedByte a := by
  cases m with
  | nil => rfl
  | cons c m =>
    simp only [memWfFrom, Bool.and_eq_true, decide_eq_true_eq] at h
    simp only [memGet]
    rw [if_pos (by omega)]

theorem memGet_memCons {lo a : Nat} {m : Memory} (v : Byte) (b : Nat) (h : memWfFrom lo m = true) (ha : a < lo) :
    memGet (memCons a v m) b = if b = a then v else memGet m b := by
  unfold memCons
  split <;> rename_i hv
  · split
    · subst_vars; exact memGet_below h ha
    · rfl
  · rw [memGet]
    split
    · rw [if_neg (by omega), memGet_below h (by omega)]
    · rfl

theorem memWfFrom_memCons {lo a : Nat} {m : Memory} (v : Byte) (h : memWfFrom (a + 1) m = true) (hlo : lo ≤ a)
    (ha : a < Config.memSize) : memWfFrom lo (memCons a v m) = true := by
  unfold memCons
  split <;> rename_i hv
  · exact memWfFrom_mono h (by omega)
  · simp only [memWfFrom, Bool.and_eq_true, decide_eq_true_eq]
    exact ⟨⟨⟨hlo, ha⟩, hv⟩, h⟩

theorem memWfFrom_memSet {lo a : Nat} {m : Memory} (v : Byte) (h : memWfFrom lo m = true) (hlo : lo ≤ a)
    (ha : a < Config.memSize) : memWfFrom lo (memSet m a v) = true := by
  induction m generalizing lo with
  | nil => exact memWfFrom_memCons v rfl hlo ha
  | cons c m ih =>
    obtain ⟨b, u⟩ := c
    simp only [memWfFrom, Bool.and_eq_true, decide_eq_true_eq] at h
    simp only [memSet]
    split
    · refine memWfFrom_memCons v ?_ hlo ha
      simp only [memWfFrom, Bool.and_eq_true, decide_eq_true_eq]
      exact ⟨⟨⟨by omega, h.1.1.2⟩, h.1.2⟩, h.2⟩
    · split
      · subst_vars; exact memWfFrom_memCons v h.2 hlo ha
      · simp only [memWfFrom, Bool.and_eq_true, decide_eq_true_eq]
        exact ⟨⟨⟨h.1.1.1, h.1.1.2⟩, h.1.2⟩, ih h.2 (by omega)⟩

/-- A store keeps the canonical form (log 4). -/
theorem memoryWf_memSet {a : Nat} {m : Memory} (v : Byte) (h : memoryWf m = true) (ha : a < Config.memSize) :
    memoryWf (memSet m a v) = true := memWfFrom_memSet v h (Nat.zero_le a) ha

theorem memGet_memSet_from {lo : Nat} {m : Memory} (a : Nat) (v : Byte) (b : Nat) (h : memWfFrom lo m = true) :
    memGet (memSet m a v) b = if b = a then v else memGet m b := by
  induction m generalizing lo with
  | nil => exact memGet_memCons v b (lo := a + 1) rfl (by omega)
  | cons c m ih =>
    obtain ⟨d, u⟩ := c
    simp only [memWfFrom, Bool.and_eq_true, decide_eq_true_eq] at h
    simp only [memSet]
    split <;> rename_i had
    · refine memGet_memCons (lo := d) v b ?_ had
      simp only [memWfFrom, Bool.and_eq_true, decide_eq_true_eq]
      exact ⟨⟨⟨by omega, h.1.1.2⟩, h.1.2⟩, h.2⟩
    · split <;> rename_i had'
      · subst had'
        rw [memGet_memCons v b h.2 (by omega), memGet]
        split
        · rfl
        · split
          · rename_i h1; rw [memGet_below h.2 (by omega)]
          · rfl
      · rw [memGet, memGet]
        split
        · rw [if_neg (by omega)]
        · split
          · rw [if_neg (by omega)]
          · exact ih h.2

/-- A read gives the byte stored there last, and every other byte as before (R60, R73). -/
theorem memGet_memSet {m : Memory} (a : Nat) (v : Byte) (b : Nat) (h : memoryWf m = true) :
    memGet (memSet m a v) b = if b = a then v else memGet m b := memGet_memSet_from a v b h

/-- Storing bytes in memory keeps the canonical form. -/
theorem memoryWf_memStore {a : Nat} {m : Memory} (bs : List Byte) (h : memoryWf m = true)
    (ha : a + bs.length ≤ Config.memSize) : memoryWf (memStore m a bs) = true := by
  induction bs generalizing a m with
  | nil => exact h
  | cons b bs ih =>
    simp only [List.length_cons] at ha
    exact ih (memoryWf_memSet b h (by omega)) (by omega)

/-- What a byte is after consecutive bytes are stored from `a` up. -/
theorem memGet_memStore {a : Nat} {m : Memory} (bs : List Byte) (c : Nat) (h : memoryWf m = true)
    (ha : a + bs.length ≤ Config.memSize) :
    memGet (memStore m a bs) c = if a ≤ c ∧ c < a + bs.length then bs.getD (c - a) 0#8 else memGet m c := by
  induction bs generalizing a m with
  | nil => rw [memStore, if_neg (by simp)]
  | cons b bs ih =>
    simp only [List.length_cons] at ha
    rw [memStore, ih (memoryWf_memSet b h (by omega)) (by omega), memGet_memSet a b c h]
    rcases Nat.lt_trichotomy c a with hc | hc | hc
    · rw [if_neg (by omega), if_neg (by omega), if_neg (by omega)]
    · subst hc; simp
    · have hca : c - a = (c - (a + 1)) + 1 := by omega
      rw [if_neg (show ¬ c = a by omega), hca, List.getD_cons_succ, List.length_cons]
      by_cases hr : c < a + 1 + bs.length
      · rw [if_pos (by omega), if_pos (by omega)]
      · rw [if_neg (by omega), if_neg (by omega)]

/-- The stores of an instruction's bytes keep the canonical form wherever they lie. -/
theorem memoryWf_memPlace {a : Nat} {m : Memory} (bs : List Byte) (h : memoryWf m = true) :
    memoryWf (memPlace m a bs) = true := by
  induction bs generalizing a m with
  | nil => exact h
  | cons b bs ih =>
    rw [memPlace]
    split
    · exact ih (memoryWf_memSet b h (by assumption))
    · exact ih h

@[simp] theorem memLoad_length (m : Memory) (a n : Nat) : (memLoad m a n).length = n := by
  induction n generalizing a with
  | zero => rfl
  | succ n ih => rw [memLoad, List.length_cons, ih]

/-- The k-th byte loaded from `a` up is the byte at `a + k`. -/
theorem memLoad_getD (m : Memory) (a n k : Nat) :
    (memLoad m a n).getD k 0#8 = if k < n then memGet m (a + k) else 0#8 := by
  induction n generalizing a k with
  | zero => simp [memLoad]
  | succ n ih =>
    cases k with
    | zero => simp [memLoad]
    | succ k =>
      rw [memLoad, List.getD_cons_succ, ih]
      simp only [Nat.succ_lt_succ_iff]
      rw [show a + 1 + k = a + (k + 1) by omega]

/-- Memories in canonical form that read alike are the same data. -/
theorem memory_ext_from {lo : Nat} {m m' : Memory} (h : memWfFrom lo m = true) (h' : memWfFrom lo m' = true)
    (hr : ∀ a, memGet m a = memGet m' a) : m = m' := by
  induction m generalizing lo m' with
  | nil =>
    cases m' with
    | nil => rfl
    | cons c m' =>
      simp only [memWfFrom, Bool.and_eq_true, decide_eq_true_eq] at h'
      have := hr c.1
      simp only [memGet, Nat.lt_irrefl, if_false, if_true] at this
      exact absurd this.symm h'.1.2
  | cons c m ih =>
    obtain ⟨a, v⟩ := c
    simp only [memWfFrom, Bool.and_eq_true, decide_eq_true_eq] at h
    cases m' with
    | nil =>
      have := hr a
      simp only [memGet, Nat.lt_irrefl, if_false, if_true] at this
      exact absurd this h.1.2
    | cons c' m' =>
      obtain ⟨a', v'⟩ := c'
      simp only [memWfFrom, Bool.and_eq_true, decide_eq_true_eq] at h'
      have haa : a = a' := by
        rcases Nat.lt_trichotomy a a' with hlt | heq | hgt
        · have := hr a
          simp only [memGet, Nat.lt_irrefl, if_false, if_true, hlt] at this
          exact absurd this h.1.2
        · exact heq
        · have := hr a'
          simp only [memGet, Nat.lt_irrefl, if_false, if_true, hgt] at this
          exact absurd this.symm h'.1.2
      subst haa
      have hv : v = v' := by
        have := hr a
        simpa only [memGet, Nat.lt_irrefl, if_false, if_true] using this
      subst hv
      refine congrArg _ (ih h.2 h'.2 fun b => ?_)
      by_cases hb : b ≤ a
      · rw [memGet_below h.2 (by omega), memGet_below h'.2 (by omega)]
      · have := hr b
        simp only [memGet] at this
        rwa [if_neg (by omega), if_neg (by omega), if_neg (by omega), if_neg (by omega)] at this

/-- Memories in canonical form that read alike are the same data. -/
theorem memory_ext {m m' : Memory} (h : memoryWf m = true) (h' : memoryWf m' = true)
    (hr : ∀ a, memGet m a = memGet m' a) : m = m' := memory_ext_from h h' hr

end Sys2Proof.Machine
end

