-- ==== Sys2Proof/Laws/State.lean ====
section
/-! SUPPORT. The fields of the state after each update of Machine/Ops.lean, one lemma per field and update, true by rfl;
the readings of registers, keys, slots and bytes after them; and the composite updates in terms of the plain ones. -/

namespace Sys2Proof.Machine

/-! ### Composite updates -/

@[simp] theorem State.advance_eq (s : State) : s.advance = s.setPc (s.pc + 2#16) := rfl
@[simp] theorem State.skipIf_eq (s : State) (c : Bool) :
    s.skipIf c = s.setPc (if c then s.pc + 4#16 else s.pc + 2#16) := rfl
@[simp] theorem State.setRegFlag_eq (s : State) (x : Reg) (b : Byte) (flag : Bool) :
    s.setRegFlag x b flag = (s.setReg x b).setReg regVF (flagByte flag) := rfl
@[simp] theorem State.setMasked_eq (s : State) (x : Reg) (r kk : Byte) : s.setMasked x r kk = s.setReg x (r &&& kk) := rfl
@[simp] theorem State.afterDraw_eq (s : State) (d : Drawing) :
    s.afterDraw d = (s.setFb d.1).setReg regVF (flagByte d.2) := rfl
@[simp] theorem State.placeAtPc_eq (s : State) (bs : List Byte) :
    s.placeAtPc bs = s.setMem (memPlace s.mem s.pc.toNat bs) := rfl
@[simp] theorem State.pressKey_eq (s : State) (k : Fin 16) : s.pressKey k = s.setKey k true := rfl
@[simp] theorem State.releaseKey_eq (s : State) (k : Fin 16) :
    s.releaseKey k = (s.setKey k false).setLatch (s.latch.onRelease k) := rfl

/-! ### The tuple of R20 and the state -/

@[simp] theorem CoreState.toState_toCoreState (c : CoreState) : c.toState.toCoreState = c := rfl
@[simp] theorem CoreState.tick_toState (c : CoreState) : c.tick.toState = c.toState.tick := rfl
@[simp] theorem onTuple_next (s : State) : onTuple (.next s) = .next s.toCoreState := rfl
@[simp] theorem onTuple_fault (f : Fault) : onTuple (.fault f) = .fault f := rfl
@[simp] theorem onTuple_refused (e : Refusal) : onTuple (.refused e) = .refused e := rfl

/-! ### One lemma per field and update -/

@[simp] theorem State.setReg_v (s : State) (x : Reg) (b : Byte) : (s.setReg x b).v = s.v.set x.val b := rfl
@[simp] theorem State.setReg_i (s : State) (x : Reg) (b : Byte) : (s.setReg x b).i = s.i := rfl
@[simp] theorem State.setReg_pc (s : State) (x : Reg) (b : Byte) : (s.setReg x b).pc = s.pc := rfl
@[simp] theorem State.setReg_sp (s : State) (x : Reg) (b : Byte) : (s.setReg x b).sp = s.sp := rfl
@[simp] theorem State.setReg_stack (s : State) (x : Reg) (b : Byte) : (s.setReg x b).stack = s.stack := rfl
@[simp] theorem State.setReg_dt (s : State) (x : Reg) (b : Byte) : (s.setReg x b).dt = s.dt := rfl
@[simp] theorem State.setReg_st (s : State) (x : Reg) (b : Byte) : (s.setReg x b).st = s.st := rfl
@[simp] theorem State.setReg_mem (s : State) (x : Reg) (b : Byte) : (s.setReg x b).mem = s.mem := rfl
@[simp] theorem State.setReg_fb (s : State) (x : Reg) (b : Byte) : (s.setReg x b).fb = s.fb := rfl
@[simp] theorem State.setReg_keys (s : State) (x : Reg) (b : Byte) : (s.setReg x b).keys = s.keys := rfl
@[simp] theorem State.setReg_latch (s : State) (x : Reg) (b : Byte) : (s.setReg x b).latch = s.latch := rfl
@[simp] theorem State.setReg_draws (s : State) (x : Reg) (b : Byte) : (s.setReg x b).draws = s.draws := rfl
@[simp] theorem State.setReg_key (s : State) (x : Reg) (b : Byte) (k' : Fin 16) : (s.setReg x b).key k' = s.key k' := rfl
@[simp] theorem State.setReg_byte (s : State) (x : Reg) (b : Byte) (a : Nat) : (s.setReg x b).byte a = s.byte a := rfl
@[simp] theorem State.setReg_slot (s : State) (x : Reg) (b : Byte) (j : Nat) : (s.setReg x b).slot j = s.slot j := rfl
@[simp] theorem State.setReg_addrI (s : State) (x : Reg) (b : Byte) : (s.setReg x b).addrI = s.addrI := rfl

@[simp] theorem State.setRegsFrom0_v (s : State) (bs : List Byte) : (s.setRegsFrom0 bs).v = loadRegs s.v 0 bs := rfl
@[simp] theorem State.setRegsFrom0_i (s : State) (bs : List Byte) : (s.setRegsFrom0 bs).i = s.i := rfl
@[simp] theorem State.setRegsFrom0_pc (s : State) (bs : List Byte) : (s.setRegsFrom0 bs).pc = s.pc := rfl
@[simp] theorem State.setRegsFrom0_sp (s : State) (bs : List Byte) : (s.setRegsFrom0 bs).sp = s.sp := rfl
@[simp] theorem State.setRegsFrom0_stack (s : State) (bs : List Byte) : (s.setRegsFrom0 bs).stack = s.stack := rfl
@[simp] theorem State.setRegsFrom0_dt (s : State) (bs : List Byte) : (s.setRegsFrom0 bs).dt = s.dt := rfl
@[simp] theorem State.setRegsFrom0_st (s : State) (bs : List Byte) : (s.setRegsFrom0 bs).st = s.st := rfl
@[simp] theorem State.setRegsFrom0_mem (s : State) (bs : List Byte) : (s.setRegsFrom0 bs).mem = s.mem := rfl
@[simp] theorem State.setRegsFrom0_fb (s : State) (bs : List Byte) : (s.setRegsFrom0 bs).fb = s.fb := rfl
@[simp] theorem State.setRegsFrom0_keys (s : State) (bs : List Byte) : (s.setRegsFrom0 bs).keys = s.keys := rfl
@[simp] theorem State.setRegsFrom0_latch (s : State) (bs : List Byte) : (s.setRegsFrom0 bs).latch = s.latch := rfl
@[simp] theorem State.setRegsFrom0_draws (s : State) (bs : List Byte) : (s.setRegsFrom0 bs).draws = s.draws := rfl
@[simp] theorem State.setRegsFrom0_key (s : State) (bs : List Byte) (k' : Fin 16) : (s.setRegsFrom0 bs).key k' = s.key k' := rfl
@[simp] theorem State.setRegsFrom0_byte (s : State) (bs : List Byte) (a : Nat) : (s.setRegsFrom0 bs).byte a = s.byte a := rfl
@[simp] theorem State.setRegsFrom0_slot (s : State) (bs : List Byte) (j : Nat) : (s.setRegsFrom0 bs).slot j = s.slot j := rfl
@[simp] theorem State.setRegsFrom0_addrI (s : State) (bs : List Byte) : (s.setRegsFrom0 bs).addrI = s.addrI := rfl

@[simp] theorem State.setI_v (s : State) (w : Word) : (s.setI w).v = s.v := rfl
@[simp] theorem State.setI_i (s : State) (w : Word) : (s.setI w).i = w := rfl
@[simp] theorem State.setI_pc (s : State) (w : Word) : (s.setI w).pc = s.pc := rfl
@[simp] theorem State.setI_sp (s : State) (w : Word) : (s.setI w).sp = s.sp := rfl
@[simp] theorem State.setI_stack (s : State) (w : Word) : (s.setI w).stack = s.stack := rfl
@[simp] theorem State.setI_dt (s : State) (w : Word) : (s.setI w).dt = s.dt := rfl
@[simp] theorem State.setI_st (s : State) (w : Word) : (s.setI w).st = s.st := rfl
@[simp] theorem State.setI_mem (s : State) (w : Word) : (s.setI w).mem = s.mem := rfl
@[simp] theorem State.setI_fb (s : State) (w : Word) : (s.setI w).fb = s.fb := rfl
@[simp] theorem State.setI_keys (s : State) (w : Word) : (s.setI w).keys = s.keys := rfl
@[simp] theorem State.setI_latch (s : State) (w : Word) : (s.setI w).latch = s.latch := rfl
@[simp] theorem State.setI_draws (s : State) (w : Word) : (s.setI w).draws = s.draws := rfl
@[simp] theorem State.setI_reg (s : State) (w : Word) (r : Reg) : (s.setI w).reg r = s.reg r := rfl
@[simp] theorem State.setI_key (s : State) (w : Word) (k' : Fin 16) : (s.setI w).key k' = s.key k' := rfl
@[simp] theorem State.setI_byte (s : State) (w : Word) (a : Nat) : (s.setI w).byte a = s.byte a := rfl
@[simp] theorem State.setI_slot (s : State) (w : Word) (j : Nat) : (s.setI w).slot j = s.slot j := rfl

@[simp] theorem State.setPc_v (s : State) (w : Word) : (s.setPc w).v = s.v := rfl
@[simp] theorem State.setPc_i (s : State) (w : Word) : (s.setPc w).i = s.i := rfl
@[simp] theorem State.setPc_pc (s : State) (w : Word) : (s.setPc w).pc = w := rfl
@[simp] theorem State.setPc_sp (s : State) (w : Word) : (s.setPc w).sp = s.sp := rfl
@[simp] theorem State.setPc_stack (s : State) (w : Word) : (s.setPc w).stack = s.stack := rfl
@[simp] theorem State.setPc_dt (s : State) (w : Word) : (s.setPc w).dt = s.dt := rfl
@[simp] theorem State.setPc_st (s : State) (w : Word) : (s.setPc w).st = s.st := rfl
@[simp] theorem State.setPc_mem (s : State) (w : Word) : (s.setPc w).mem = s.mem := rfl
@[simp] theorem State.setPc_fb (s : State) (w : Word) : (s.setPc w).fb = s.fb := rfl
@[simp] theorem State.setPc_keys (s : State) (w : Word) : (s.setPc w).keys = s.keys := rfl
@[simp] theorem State.setPc_latch (s : State) (w : Word) : (s.setPc w).latch = s.latch := rfl
@[simp] theorem State.setPc_draws (s : State) (w : Word) : (s.setPc w).draws = s.draws := rfl
@[simp] theorem State.setPc_reg (s : State) (w : Word) (r : Reg) : (s.setPc w).reg r = s.reg r := rfl
@[simp] theorem State.setPc_key (s : State) (w : Word) (k' : Fin 16) : (s.setPc w).key k' = s.key k' := rfl
@[simp] theorem State.setPc_byte (s : State) (w : Word) (a : Nat) : (s.setPc w).byte a = s.byte a := rfl
@[simp] theorem State.setPc_slot (s : State) (w : Word) (j : Nat) : (s.setPc w).slot j = s.slot j := rfl
@[simp] theorem State.setPc_addrI (s : State) (w : Word) : (s.setPc w).addrI = s.addrI := rfl

@[simp] theorem State.setDt_v (s : State) (b : Byte) : (s.setDt b).v = s.v := rfl
@[simp] theorem State.setDt_i (s : State) (b : Byte) : (s.setDt b).i = s.i := rfl
@[simp] theorem State.setDt_pc (s : State) (b : Byte) : (s.setDt b).pc = s.pc := rfl
@[simp] theorem State.setDt_sp (s : State) (b : Byte) : (s.setDt b).sp = s.sp := rfl
@[simp] theorem State.setDt_stack (s : State) (b : Byte) : (s.setDt b).stack = s.stack := rfl
@[simp] theorem State.setDt_dt (s : State) (b : Byte) : (s.setDt b).dt = b := rfl
@[simp] theorem State.setDt_st (s : State) (b : Byte) : (s.setDt b).st = s.st := rfl
@[simp] theorem State.setDt_mem (s : State) (b : Byte) : (s.setDt b).mem = s.mem := rfl
@[simp] theorem State.setDt_fb (s : State) (b : Byte) : (s.setDt b).fb = s.fb := rfl
@[simp] theorem State.setDt_keys (s : State) (b : Byte) : (s.setDt b).keys = s.keys := rfl
@[simp] theorem State.setDt_latch (s : State) (b : Byte) : (s.setDt b).latch = s.latch := rfl
@[simp] theorem State.setDt_draws (s : State) (b : Byte) : (s.setDt b).draws = s.draws := rfl
@[simp] theorem State.setDt_reg (s : State) (b : Byte) (r : Reg) : (s.setDt b).reg r = s.reg r := rfl
@[simp] theorem State.setDt_key (s : State) (b : Byte) (k' : Fin 16) : (s.setDt b).key k' = s.key k' := rfl
@[simp] theorem State.setDt_byte (s : State) (b : Byte) (a : Nat) : (s.setDt b).byte a = s.byte a := rfl
@[simp] theorem State.setDt_slot (s : State) (b : Byte) (j : Nat) : (s.setDt b).slot j = s.slot j := rfl
@[simp] theorem State.setDt_addrI (s : State) (b : Byte) : (s.setDt b).addrI = s.addrI := rfl

@[simp] theorem State.setSt_v (s : State) (b : Byte) : (s.setSt b).v = s.v := rfl
@[simp] theorem State.setSt_i (s : State) (b : Byte) : (s.setSt b).i = s.i := rfl
@[simp] theorem State.setSt_pc (s : State) (b : Byte) : (s.setSt b).pc = s.pc := rfl
@[simp] theorem State.setSt_sp (s : State) (b : Byte) : (s.setSt b).sp = s.sp := rfl
@[simp] theorem State.setSt_stack (s : State) (b : Byte) : (s.setSt b).stack = s.stack := rfl
@[simp] theorem State.setSt_dt (s : State) (b : Byte) : (s.setSt b).dt = s.dt := rfl
@[simp] theorem State.setSt_st (s : State) (b : Byte) : (s.setSt b).st = b := rfl
@[simp] theorem State.setSt_mem (s : State) (b : Byte) : (s.setSt b).mem = s.mem := rfl
@[simp] theorem State.setSt_fb (s : State) (b : Byte) : (s.setSt b).fb = s.fb := rfl
@[simp] theorem State.setSt_keys (s : State) (b : Byte) : (s.setSt b).keys = s.keys := rfl
@[simp] theorem State.setSt_latch (s : State) (b : Byte) : (s.setSt b).latch = s.latch := rfl
@[simp] theorem State.setSt_draws (s : State) (b : Byte) : (s.setSt b).draws = s.draws := rfl
@[simp] theorem State.setSt_reg (s : State) (b : Byte) (r : Reg) : (s.setSt b).reg r = s.reg r := rfl
@[simp] theorem State.setSt_key (s : State) (b : Byte) (k' : Fin 16) : (s.setSt b).key k' = s.key k' := rfl
@[simp] theorem State.setSt_byte (s : State) (b : Byte) (a : Nat) : (s.setSt b).byte a = s.byte a := rfl
@[simp] theorem State.setSt_slot (s : State) (b : Byte) (j : Nat) : (s.setSt b).slot j = s.slot j := rfl
@[simp] theorem State.setSt_addrI (s : State) (b : Byte) : (s.setSt b).addrI = s.addrI := rfl

@[simp] theorem State.setMem_v (s : State) (m : Memory) : (s.setMem m).v = s.v := rfl
@[simp] theorem State.setMem_i (s : State) (m : Memory) : (s.setMem m).i = s.i := rfl
@[simp] theorem State.setMem_pc (s : State) (m : Memory) : (s.setMem m).pc = s.pc := rfl
@[simp] theorem State.setMem_sp (s : State) (m : Memory) : (s.setMem m).sp = s.sp := rfl
@[simp] theorem State.setMem_stack (s : State) (m : Memory) : (s.setMem m).stack = s.stack := rfl
@[simp] theorem State.setMem_dt (s : State) (m : Memory) : (s.setMem m).dt = s.dt := rfl
@[simp] theorem State.setMem_st (s : State) (m : Memory) : (s.setMem m).st = s.st := rfl
@[simp] theorem State.setMem_mem (s : State) (m : Memory) : (s.setMem m).mem = m := rfl
@[simp] theorem State.setMem_fb (s : State) (m : Memory) : (s.setMem m).fb = s.fb := rfl
@[simp] theorem State.setMem_keys (s : State) (m : Memory) : (s.setMem m).keys = s.keys := rfl
@[simp] theorem State.setMem_latch (s : State) (m : Memory) : (s.setMem m).latch = s.latch := rfl
@[simp] theorem State.setMem_draws (s : State) (m : Memory) : (s.setMem m).draws = s.draws := rfl
@[simp] theorem State.setMem_reg (s : State) (m : Memory) (r : Reg) : (s.setMem m).reg r = s.reg r := rfl
@[simp] theorem State.setMem_key (s : State) (m : Memory) (k' : Fin 16) : (s.setMem m).key k' = s.key k' := rfl
@[simp] theorem State.setMem_slot (s : State) (m : Memory) (j : Nat) : (s.setMem m).slot j = s.slot j := rfl
@[simp] theorem State.setMem_addrI (s : State) (m : Memory) : (s.setMem m).addrI = s.addrI := rfl

@[simp] theorem State.setFb_v (s : State) (f : Framebuffer) : (s.setFb f).v = s.v := rfl
@[simp] theorem State.setFb_i (s : State) (f : Framebuffer) : (s.setFb f).i = s.i := rfl
@[simp] theorem State.setFb_pc (s : State) (f : Framebuffer) : (s.setFb f).pc = s.pc := rfl
@[simp] theorem State.setFb_sp (s : State) (f : Framebuffer) : (s.setFb f).sp = s.sp := rfl
@[simp] theorem State.setFb_stack (s : State) (f : Framebuffer) : (s.setFb f).stack = s.stack := rfl
@[simp] theorem State.setFb_dt (s : State) (f : Framebuffer) : (s.setFb f).dt = s.dt := rfl
@[simp] theorem State.setFb_st (s : State) (f : Framebuffer) : (s.setFb f).st = s.st := rfl
@[simp] theorem State.setFb_mem (s : State) (f : Framebuffer) : (s.setFb f).mem = s.mem := rfl
@[simp] theorem State.setFb_fb (s : State) (f : Framebuffer) : (s.setFb f).fb = f := rfl
@[simp] theorem State.setFb_keys (s : State) (f : Framebuffer) : (s.setFb f).keys = s.keys := rfl
@[simp] theorem State.setFb_latch (s : State) (f : Framebuffer) : (s.setFb f).latch = s.latch := rfl
@[simp] theorem State.setFb_draws (s : State) (f : Framebuffer) : (s.setFb f).draws = s.draws := rfl
@[simp] theorem State.setFb_reg (s : State) (f : Framebuffer) (r : Reg) : (s.setFb f).reg r = s.reg r := rfl
@[simp] theorem State.setFb_key (s : State) (f : Framebuffer) (k' : Fin 16) : (s.setFb f).key k' = s.key k' := rfl
@[simp] theorem State.setFb_byte (s : State) (f : Framebuffer) (a : Nat) : (s.setFb f).byte a = s.byte a := rfl
@[simp] theorem State.setFb_slot (s : State) (f : Framebuffer) (j : Nat) : (s.setFb f).slot j = s.slot j := rfl
@[simp] theorem State.setFb_addrI (s : State) (f : Framebuffer) : (s.setFb f).addrI = s.addrI := rfl

@[simp] theorem State.setKey_v (s : State) (k : Fin 16) (b : Bool) : (s.setKey k b).v = s.v := rfl
@[simp] theorem State.setKey_i (s : State) (k : Fin 16) (b : Bool) : (s.setKey k b).i = s.i := rfl
@[simp] theorem State.setKey_pc (s : State) (k : Fin 16) (b : Bool) : (s.setKey k b).pc = s.pc := rfl
@[simp] theorem State.setKey_sp (s : State) (k : Fin 16) (b : Bool) : (s.setKey k b).sp = s.sp := rfl
@[simp] theorem State.setKey_stack (s : State) (k : Fin 16) (b : Bool) : (s.setKey k b).stack = s.stack := rfl
@[simp] theorem State.setKey_dt (s : State) (k : Fin 16) (b : Bool) : (s.setKey k b).dt = s.dt := rfl
@[simp] theorem State.setKey_st (s : State) (k : Fin 16) (b : Bool) : (s.setKey k b).st = s.st := rfl
@[simp] theorem State.setKey_mem (s : State) (k : Fin 16) (b : Bool) : (s.setKey k b).mem = s.mem := rfl
@[simp] theorem State.setKey_fb (s : State) (k : Fin 16) (b : Bool) : (s.setKey k b).fb = s.fb := rfl
@[simp] theorem State.setKey_keys (s : State) (k : Fin 16) (b : Bool) : (s.setKey k b).keys = s.keys.set k.val b := rfl
@[simp] theorem State.setKey_latch (s : State) (k : Fin 16) (b : Bool) : (s.setKey k b).latch = s.latch := rfl
@[simp] theorem State.setKey_draws (s : State) (k : Fin 16) (b : Bool) : (s.setKey k b).draws = s.draws := rfl
@[simp] theorem State.setKey_reg (s : State) (k : Fin 16) (b : Bool) (r : Reg) : (s.setKey k b).reg r = s.reg r := rfl
@[simp] theorem State.setKey_byte (s : State) (k : Fin 16) (b : Bool) (a : Nat) : (s.setKey k b).byte a = s.byte a := rfl
@[simp] theorem State.setKey_slot (s : State) (k : Fin 16) (b : Bool) (j : Nat) : (s.setKey k b).slot j = s.slot j := rfl
@[simp] theorem State.setKey_addrI (s : State) (k : Fin 16) (b : Bool) : (s.setKey k b).addrI = s.addrI := rfl

@[simp] theorem State.setLatch_v (s : State) (l : Latch) : (s.setLatch l).v = s.v := rfl
@[simp] theorem State.setLatch_i (s : State) (l : Latch) : (s.setLatch l).i = s.i := rfl
@[simp] theorem State.setLatch_pc (s : State) (l : Latch) : (s.setLatch l).pc = s.pc := rfl
@[simp] theorem State.setLatch_sp (s : State) (l : Latch) : (s.setLatch l).sp = s.sp := rfl
@[simp] theorem State.setLatch_stack (s : State) (l : Latch) : (s.setLatch l).stack = s.stack := rfl
@[simp] theorem State.setLatch_dt (s : State) (l : Latch) : (s.setLatch l).dt = s.dt := rfl
@[simp] theorem State.setLatch_st (s : State) (l : Latch) : (s.setLatch l).st = s.st := rfl
@[simp] theorem State.setLatch_mem (s : State) (l : Latch) : (s.setLatch l).mem = s.mem := rfl
@[simp] theorem State.setLatch_fb (s : State) (l : Latch) : (s.setLatch l).fb = s.fb := rfl
@[simp] theorem State.setLatch_keys (s : State) (l : Latch) : (s.setLatch l).keys = s.keys := rfl
@[simp] theorem State.setLatch_latch (s : State) (l : Latch) : (s.setLatch l).latch = l := rfl
@[simp] theorem State.setLatch_draws (s : State) (l : Latch) : (s.setLatch l).draws = s.draws := rfl
@[simp] theorem State.setLatch_reg (s : State) (l : Latch) (r : Reg) : (s.setLatch l).reg r = s.reg r := rfl
@[simp] theorem State.setLatch_key (s : State) (l : Latch) (k' : Fin 16) : (s.setLatch l).key k' = s.key k' := rfl
@[simp] theorem State.setLatch_byte (s : State) (l : Latch) (a : Nat) : (s.setLatch l).byte a = s.byte a := rfl
@[simp] theorem State.setLatch_slot (s : State) (l : Latch) (j : Nat) : (s.setLatch l).slot j = s.slot j := rfl
@[simp] theorem State.setLatch_addrI (s : State) (l : Latch) : (s.setLatch l).addrI = s.addrI := rfl

@[simp] theorem State.countDraw_v (s : State) : (s.countDraw).v = s.v := rfl
@[simp] theorem State.countDraw_i (s : State) : (s.countDraw).i = s.i := rfl
@[simp] theorem State.countDraw_pc (s : State) : (s.countDraw).pc = s.pc := rfl
@[simp] theorem State.countDraw_sp (s : State) : (s.countDraw).sp = s.sp := rfl
@[simp] theorem State.countDraw_stack (s : State) : (s.countDraw).stack = s.stack := rfl
@[simp] theorem State.countDraw_dt (s : State) : (s.countDraw).dt = s.dt := rfl
@[simp] theorem State.countDraw_st (s : State) : (s.countDraw).st = s.st := rfl
@[simp] theorem State.countDraw_mem (s : State) : (s.countDraw).mem = s.mem := rfl
@[simp] theorem State.countDraw_fb (s : State) : (s.countDraw).fb = s.fb := rfl
@[simp] theorem State.countDraw_keys (s : State) : (s.countDraw).keys = s.keys := rfl
@[simp] theorem State.countDraw_latch (s : State) : (s.countDraw).latch = s.latch := rfl
@[simp] theorem State.countDraw_draws (s : State) : (s.countDraw).draws = s.draws + 1 := rfl
@[simp] theorem State.countDraw_reg (s : State) (r : Reg) : (s.countDraw).reg r = s.reg r := rfl
@[simp] theorem State.countDraw_key (s : State) (k' : Fin 16) : (s.countDraw).key k' = s.key k' := rfl
@[simp] theorem State.countDraw_byte (s : State) (a : Nat) : (s.countDraw).byte a = s.byte a := rfl
@[simp] theorem State.countDraw_slot (s : State) (j : Nat) : (s.countDraw).slot j = s.slot j := rfl
@[simp] theorem State.countDraw_addrI (s : State) : (s.countDraw).addrI = s.addrI := rfl

@[simp] theorem State.push_v (s : State) (h : s.sp.toNat < 16) (ret target : Word) : (s.push h ret target).v = s.v := rfl
@[simp] theorem State.push_i (s : State) (h : s.sp.toNat < 16) (ret target : Word) : (s.push h ret target).i = s.i := rfl
@[simp] theorem State.push_pc (s : State) (h : s.sp.toNat < 16) (ret target : Word) : (s.push h ret target).pc = target := rfl
@[simp] theorem State.push_sp (s : State) (h : s.sp.toNat < 16) (ret target : Word) : (s.push h ret target).sp = s.sp + 1#8 := rfl
@[simp] theorem State.push_stack (s : State) (h : s.sp.toNat < 16) (ret target : Word) : (s.push h ret target).stack = s.stack.set s.sp.toNat ret := rfl
@[simp] theorem State.push_dt (s : State) (h : s.sp.toNat < 16) (ret target : Word) : (s.push h ret target).dt = s.dt := rfl
@[simp] theorem State.push_st (s : State) (h : s.sp.toNat < 16) (ret target : Word) : (s.push h ret target).st = s.st := rfl
@[simp] theorem State.push_mem (s : State) (h : s.sp.toNat < 16) (ret target : Word) : (s.push h ret target).mem = s.mem := rfl
@[simp] theorem State.push_fb (s : State) (h : s.sp.toNat < 16) (ret target : Word) : (s.push h ret target).fb = s.fb := rfl
@[simp] theorem State.push_keys (s : State) (h : s.sp.toNat < 16) (ret target : Word) : (s.push h ret target).keys = s.keys := rfl
@[simp] theorem State.push_latch (s : State) (h : s.sp.toNat < 16) (ret target : Word) : (s.push h ret target).latch = s.latch := rfl
@[simp] theorem State.push_draws (s : State) (h : s.sp.toNat < 16) (ret target : Word) : (s.push h ret target).draws = s.draws := rfl
@[simp] theorem State.push_reg (s : State) (h : s.sp.toNat < 16) (ret target : Word) (r : Reg) : (s.push h ret target).reg r = s.reg r := rfl
@[simp] theorem State.push_key (s : State) (h : s.sp.toNat < 16) (ret target : Word) (k' : Fin 16) : (s.push h ret target).key k' = s.key k' := rfl
@[simp] theorem State.push_byte (s : State) (h : s.sp.toNat < 16) (ret target : Word) (a : Nat) : (s.push h ret target).byte a = s.byte a := rfl
@[simp] theorem State.push_addrI (s : State) (h : s.sp.toNat < 16) (ret target : Word) : (s.push h ret target).addrI = s.addrI := rfl

@[simp] theorem State.pop_v (s : State) (h : s.sp.toNat - 1 < 16) : (s.pop h).v = s.v := rfl
@[simp] theorem State.pop_i (s : State) (h : s.sp.toNat - 1 < 16) : (s.pop h).i = s.i := rfl
@[simp] theorem State.pop_pc (s : State) (h : s.sp.toNat - 1 < 16) : (s.pop h).pc = s.stack[s.sp.toNat - 1] := rfl
@[simp] theorem State.pop_sp (s : State) (h : s.sp.toNat - 1 < 16) : (s.pop h).sp = s.sp - 1#8 := rfl
@[simp] theorem State.pop_stack (s : State) (h : s.sp.toNat - 1 < 16) : (s.pop h).stack = s.stack := rfl
@[simp] theorem State.pop_dt (s : State) (h : s.sp.toNat - 1 < 16) : (s.pop h).dt = s.dt := rfl
@[simp] theorem State.pop_st (s : State) (h : s.sp.toNat - 1 < 16) : (s.pop h).st = s.st := rfl
@[simp] theorem State.pop_mem (s : State) (h : s.sp.toNat - 1 < 16) : (s.pop h).mem = s.mem := rfl
@[simp] theorem State.pop_fb (s : State) (h : s.sp.toNat - 1 < 16) : (s.pop h).fb = s.fb := rfl
@[simp] theorem State.pop_keys (s : State) (h : s.sp.toNat - 1 < 16) : (s.pop h).keys = s.keys := rfl
@[simp] theorem State.pop_latch (s : State) (h : s.sp.toNat - 1 < 16) : (s.pop h).latch = s.latch := rfl
@[simp] theorem State.pop_draws (s : State) (h : s.sp.toNat - 1 < 16) : (s.pop h).draws = s.draws := rfl
@[simp] theorem State.pop_reg (s : State) (h : s.sp.toNat - 1 < 16) (r : Reg) : (s.pop h).reg r = s.reg r := rfl
@[simp] theorem State.pop_key (s : State) (h : s.sp.toNat - 1 < 16) (k' : Fin 16) : (s.pop h).key k' = s.key k' := rfl
@[simp] theorem State.pop_byte (s : State) (h : s.sp.toNat - 1 < 16) (a : Nat) : (s.pop h).byte a = s.byte a := rfl
@[simp] theorem State.pop_slot (s : State) (h : s.sp.toNat - 1 < 16) (j : Nat) : (s.pop h).slot j = s.slot j := rfl
@[simp] theorem State.pop_addrI (s : State) (h : s.sp.toNat - 1 < 16) : (s.pop h).addrI = s.addrI := rfl

@[simp] theorem State.tick_v (s : State) : (s.tick).v = s.v := rfl
@[simp] theorem State.tick_i (s : State) : (s.tick).i = s.i := rfl
@[simp] theorem State.tick_pc (s : State) : (s.tick).pc = s.pc := rfl
@[simp] theorem State.tick_sp (s : State) : (s.tick).sp = s.sp := rfl
@[simp] theorem State.tick_stack (s : State) : (s.tick).stack = s.stack := rfl
@[simp] theorem State.tick_dt (s : State) : (s.tick).dt = decTimer s.dt := rfl
@[simp] theorem State.tick_st (s : State) : (s.tick).st = decTimer s.st := rfl
@[simp] theorem State.tick_mem (s : State) : (s.tick).mem = s.mem := rfl
@[simp] theorem State.tick_fb (s : State) : (s.tick).fb = s.fb := rfl
@[simp] theorem State.tick_keys (s : State) : (s.tick).keys = s.keys := rfl
@[simp] theorem State.tick_latch (s : State) : (s.tick).latch = s.latch := rfl
@[simp] theorem State.tick_draws (s : State) : (s.tick).draws = s.draws := rfl
@[simp] theorem State.tick_reg (s : State) (r : Reg) : (s.tick).reg r = s.reg r := rfl
@[simp] theorem State.tick_key (s : State) (k' : Fin 16) : (s.tick).key k' = s.key k' := rfl
@[simp] theorem State.tick_byte (s : State) (a : Nat) : (s.tick).byte a = s.byte a := rfl
@[simp] theorem State.tick_slot (s : State) (j : Nat) : (s.tick).slot j = s.slot j := rfl
@[simp] theorem State.tick_addrI (s : State) : (s.tick).addrI = s.addrI := rfl

/-! ### Readings that an update changes -/

@[simp] theorem State.setI_addrI (s : State) (w : Word) : (s.setI w).addrI = w.toNat := rfl

@[simp] theorem State.setMem_byte (s : State) (m : Memory) (a : Nat) : (s.setMem m).byte a = memGet m a := rfl

@[simp] theorem State.setReg_reg (s : State) (x r : Reg) (b : Byte) :
    (s.setReg x b).reg r = if r = x then b else s.reg r := by
  simp only [State.reg, State.setReg_v, Vector.getElem_set, Fin.ext_iff, eq_comm]

@[simp] theorem State.setKey_key (s : State) (k k' : Fin 16) (b : Bool) :
    (s.setKey k b).key k' = if k' = k then b else s.key k' := by
  simp only [State.key, State.setKey_keys, Vector.getElem_set, Fin.ext_iff, eq_comm]

@[simp] theorem State.push_slot (s : State) (h : s.sp.toNat < 16) (ret target : Word) (j : Nat) :
    (s.push h ret target).slot j = if j = s.sp.toNat then ret else s.slot j := by
  by_cases hj : j = s.sp.toNat
  · subst hj; simp [State.slot, h]
  · simp [State.slot, hj, Ne.symm hj]

/-- A slot that exists, read through `slot`. -/
theorem State.slot_of_lt (s : State) (j : Nat) (h : j < 16) : s.slot j = s.stack[j] := by
  simp [State.slot, h]

end Sys2Proof.Machine
end

