-- ==== Sys2Proof/Laws/Ops.lean ====
section
/-! SUPPORT. One lemma for each shared operation of Machine/Ops.lean that says everything it can do: the range check,
the keypad check, push and pop, the timer phase, fetch, fetch-and-decode, consecutive register loads. -/

namespace Sys2Proof.Machine

/-! ### Range and key checks -/

theorem rangeFails_iff (a count : Nat) : rangeFails a count = true ↔ 0 < count ∧ 4096 ≤ a + count - 1 := by
  simp [rangeFails, Config.memSize]

/-- The range check passes and `k` runs, or it fails with the lowest address out of memory (R79). -/
theorem withRange_cases (s : State) (a count : Nat) (k : Result) :
    (a + count ≤ 4096 ∨ count = 0) ∧ withRange s a count k = k ∨
    (0 < count ∧ 4096 < a + count) ∧ withRange s a count k = .fault (.addressError (max a 4096) s.pc) := by
  unfold withRange
  split <;> rename_i h
  · rw [rangeFails_iff] at h
    exact .inr ⟨by omega, rfl⟩
  · rw [rangeFails_iff] at h
    exact .inl ⟨by omega, rfl⟩

theorem withRange_pass {s : State} {a count : Nat} (k : Result) (h : a + count ≤ 4096 ∨ count = 0) :
    withRange s a count k = k := by
  rcases withRange_cases s a count k with ⟨-, h'⟩ | ⟨h', -⟩
  · exact h'
  · omega

theorem withRange_fail {s : State} {a count : Nat} (k : Result) (h : 0 < count) (h' : 4096 < a + count) :
    withRange s a count k = .fault (.addressError (max a 4096) s.pc) := by
  rcases withRange_cases s a count k with ⟨h'', -⟩ | ⟨-, h''⟩
  · omega
  · exact h''

/-- The register names a key and `k` runs on it, or `InvalidKey` is raised (R232, R233). -/
theorem withKey_cases (s : State) (x : Reg) (k : Fin 16 → Result) :
    (∃ h : (s.reg x).toNat < 16, withKey s x k = k ⟨(s.reg x).toNat, h⟩) ∨
    15 < (s.reg x).toNat ∧ withKey s x k = .fault (.invalidKey (s.reg x) s.pc) := by
  by_cases h : (s.reg x).toNat < 16
  · exact .inl ⟨h, by simp [withKey, keyOfByte, h]⟩
  · exact .inr ⟨by omega, by simp [withKey, keyOfByte, h]⟩

/-! ### Call stack -/

/-- `push_return`: a push when a slot is free, `StackOverflow` at 16 (R140), the model's own fault above. -/
theorem pushReturn_cases (s : State) (ret target : Word) :
    (∃ h : s.sp.toNat < 16, pushReturn s ret target = .next (s.push h ret target)) ∨
    s.sp.toNat = 16 ∧ pushReturn s ret target = .fault (.stackOverflow s.pc) ∨
    16 < s.sp.toNat ∧ pushReturn s ret target = .fault (.stackPointerIllegal s.sp s.pc) := by
  by_cases h : s.sp.toNat < 16
  · exact .inl ⟨h, by simp [pushReturn, h]⟩
  · by_cases h' : s.sp = 16#8
    · exact .inr (.inl ⟨by simp [h'], by simp [pushReturn, h']⟩)
    · have hne : s.sp.toNat ≠ 16 := fun e => h' (by apply BitVec.eq_of_toNat_eq; simpa using e)
      exact .inr (.inr ⟨by omega, by simp [pushReturn, h, h']⟩)

/-- `pop_return`: `StackUnderflow` at 0, a pop for 1 to 16 (R140), the model's own fault above. -/
theorem popReturn_cases (s : State) :
    s.sp.toNat = 0 ∧ popReturn s = .fault (.stackUnderflow s.pc) ∨
    (∃ h : s.sp.toNat - 1 < 16, 0 < s.sp.toNat ∧ popReturn s = .next (s.pop h)) ∨
    16 < s.sp.toNat ∧ popReturn s = .fault (.stackPointerIllegal s.sp s.pc) := by
  by_cases h' : s.sp = 0#8
  · exact .inl ⟨by simp [h'], by simp [popReturn, h']⟩
  · have hne : s.sp.toNat ≠ 0 := fun e => h' (by apply BitVec.eq_of_toNat_eq; simpa using e)
    by_cases h : s.sp.toNat - 1 < 16
    · exact .inr (.inl ⟨h, by omega, by simp [popReturn, h', h]⟩)
    · exact .inr (.inr ⟨by omega, by simp [popReturn, h', h]⟩)

/-! ### Timer phase -/

/-- One timer's decrement as a number: down by one, not below 0 (R121). -/
theorem decTimer_toNat (t : Byte) : (decTimer t).toNat = t.toNat - 1 := by
  unfold decTimer
  split <;> rename_i h
  · rw [BitVec.toNat_sub_of_le (by rw [BitVec.le_def]; exact h)]; rfl
  · simp; omega

/-! ### Fetch and decode -/

theorem memRead_eq (s : State) (a : Nat) :
    memRead s a = if a < 4096 then .ok (s.byte a) else .error (.addressError a s.pc) := by
  unfold memRead
  by_cases h : a < 4096
  · rw [if_neg (by simpa [Config.memSize] using h), if_pos h]; rfl
  · rw [if_pos (by simpa [Config.memSize] using h), if_neg h]; rfl

/-- `Fetch(pc)`: the two bytes at `pc`, or `AddressError` at the first of the two that is out of memory (R66). -/
theorem fetch_eq (s : State) :
    fetch s =
      if s.pc.toNat < 4095 then .ok (wordOfBytes (s.byte s.pc.toNat) (s.byte (s.pc.toNat + 1)))
      else .error (.addressError (if s.pc.toNat = 4095 then 4096 else s.pc.toNat) s.pc) := by
  unfold fetch
  rw [memRead_eq, memRead_eq]
  by_cases h : s.pc.toNat < 4095
  · rw [if_pos (by omega), if_pos (by omega), if_pos h]
  · by_cases h' : s.pc.toNat = 4095
    · rw [if_pos (by omega), if_neg (by omega), if_neg h, if_pos h', h']
    · rw [if_neg (by omega), if_neg h, if_neg h']

/-- Fetch and decode: an instruction from a `pc` below 0xFFF, or the error of R66 or R128. -/
theorem fetchInstr_eq (s : State) :
    fetchInstr s =
      if s.pc.toNat < 4095 then
        (match decode (wordOfBytes (s.byte s.pc.toNat) (s.byte (s.pc.toNat + 1))) with
          | .ok i => .ok i
          | .error _ => .error (.decodeError (wordOfBytes (s.byte s.pc.toNat) (s.byte (s.pc.toNat + 1))) s.pc))
      else .error (.addressError (if s.pc.toNat = 4095 then 4096 else s.pc.toNat) s.pc) := by
  unfold fetchInstr
  by_cases h : s.pc.toNat < 4095 <;> simp only [fetch_eq, h, if_true, if_false] <;> rfl

/-- An instruction is fetched only from a `pc` below 0xFFF (R66). -/
theorem fetchInstr_pc {s : State} {i : Instr} (h : fetchInstr s = .ok i) : s.pc.toNat < 4095 := by
  rw [fetchInstr_eq] at h
  split at h
  · assumption
  · cases h

/-- Fetch and decode read only `pc` and memory. -/
theorem fetchInstr_congr {s t : State} (hpc : t.pc = s.pc) (hmem : ∀ a, t.byte a = s.byte a) :
    fetchInstr t = fetchInstr s := by
  rw [fetchInstr_eq, fetchInstr_eq, hpc, hmem, hmem]

/-- The timer phase does not change what is fetched (R121, R122). -/
@[simp] theorem fetchInstr_tick (s : State) : fetchInstr s.tick = fetchInstr s :=
  fetchInstr_congr rfl fun _ => rfl

/-- A step is its timer phase, then the fetched instruction on the state it leaves (R129). -/
theorem step_cases (s : State) :
    (∃ f, fetchInstr s.tick = .error f ∧ step s = .fault f) ∨
    ∃ i, fetchInstr s.tick = .ok i ∧ step s = exec i s.tick := by
  unfold step
  split <;> rename_i h
  · exact .inl ⟨_, h, rfl⟩
  · exact .inr ⟨_, h, rfl⟩

/-! ### Consecutive register loads -/

/-- What a register is after consecutive registers from `r` up are written. -/
theorem loadRegs_getElem (v : Vector Byte 16) (r : Nat) (bs : List Byte) (q : Nat) (hq : q < 16) :
    (loadRegs v r bs)[q] = if r ≤ q ∧ q < r + bs.length then bs.getD (q - r) 0#8 else v[q] := by
  induction bs generalizing v r with
  | nil => rw [loadRegs, if_neg (by simp)]
  | cons b bs ih =>
    rw [loadRegs, ih, Vector.getElem_setIfInBounds]
    rcases Nat.lt_trichotomy q r with h | h | h
    · rw [if_neg (by omega), if_neg (by omega), if_neg (by omega)]
    · subst h; simp
    · have hqr : q - r = (q - (r + 1)) + 1 := by omega
      rw [if_neg (show ¬ r = q by omega), hqr, List.getD_cons_succ, List.length_cons]
      by_cases hr : q < r + 1 + bs.length
      · rw [if_pos (by omega), if_pos (by omega)]
      · rw [if_neg (by omega), if_neg (by omega)]

/-- LD_VX_MEM's register writes (R195). -/
theorem State.setRegsFrom0_reg (s : State) (bs : List Byte) (r : Reg) :
    (s.setRegsFrom0 bs).reg r = if r.val < bs.length then bs.getD r.val 0#8 else s.reg r := by
  simp [State.reg, loadRegs_getElem]

/-- LD_MEM_VX's operand: register k is byte k of the list (R194). -/
theorem State.regsUpTo_getD (s : State) (x : Reg) (k : Nat) (h : k < 16) :
    (s.regsUpTo x).getD k 0#8 = if k ≤ x.val then s.reg ⟨k, h⟩ else 0#8 := by
  have hl : s.v.toList.length = 16 := by simp
  by_cases hk : k ≤ x.val
  · simp [State.regsUpTo, State.reg, hk, Nat.lt_succ_of_le hk]
  · simp [State.regsUpTo, hk, Nat.lt_succ_iff]

@[simp] theorem State.regsUpTo_length (s : State) (x : Reg) : (s.regsUpTo x).length = x.val + 1 := by
  simp [State.regsUpTo]

@[simp] theorem bcdDigits_length (v : Byte) : (bcdDigits v).length = 3 := rfl

/-! ### Narrowing -/

theorem trunc8_toNat (v : Int) : (trunc8 v).toNat = (v % 256).toNat := by
  simp [trunc8, BitVec.toNat_ofInt]

theorem trunc16_toNat (v : Int) : (trunc16 v).toNat = (v % 65536).toNat := by
  simp [trunc16, BitVec.toNat_ofInt]

/-- `trunc_8(a + b)` is the wrapping sum (R162, R167, R173). -/
theorem addResult_eq (a b : Byte) : addResult a b = a + b := by
  apply BitVec.eq_of_toNat_eq
  rw [addResult, trunc8_toNat, BitVec.toNat_add]
  omega

/-- `trunc_8(a − b)` is the wrapping difference (R168, R173). -/
theorem subResult_eq (a b : Byte) : subResult a b = a - b := by
  apply BitVec.eq_of_toNat_eq
  rw [subResult, trunc8_toNat, BitVec.toNat_sub]
  omega

/-- `trunc_8(a × 2)` is the left shift (R171). -/
theorem shlResult_eq (a : Byte) : shlResult a = a <<< 1 := by
  apply BitVec.eq_of_toNat_eq
  rw [shlResult, trunc8_toNat, BitVec.toNat_shiftLeft]
  omega

end Sys2Proof.Machine
end

