-- ==== Sys2Proof/Laws/PerInstr.lean ====
section
/-! SUPPORT. Per instruction: the encoded word matches the row of the opcode map that bears the instruction's name
(spec/30_encoding.md R95). -/

namespace Sys2Proof.Laws.EncodeInRow

/-- The word of an instruction matches the row of R95 with the instruction's mnemonic. -/
def Statement (i : Instr) : Prop :=
  ∃ row ∈ opcodeRows, row.mnemonic = i.mnemonic ∧ row.matches (encode i) = true

/-- A row of the map with the right name and the masked word equal to its pattern. -/
theorem of_row {i : Instr} (name : String) (pattern mask : Word) (h : ⟨name, pattern, mask⟩ ∈ opcodeRows)
    (hn : name = i.mnemonic) (hm : encode i &&& mask = pattern) : Statement i :=
  ⟨_, h, hn, by simpa [OpcodeRow.matches] using hm⟩

theorem cls : Statement (.cls) :=
  of_row "CLS" 0x00E0#16 0xFFFF#16 (by decide) rfl (rfl)

theorem ret : Statement (.ret) :=
  of_row "RET" 0x00EE#16 0xFFFF#16 (by decide) rfl (rfl)

theorem jp (nnn : BitVec 12) : Statement (.jp nnn) :=
  of_row "JP" 0x1000#16 0xF000#16 (by decide) rfl (formatA_mask _ nnn)

theorem call (nnn : BitVec 12) : Statement (.call nnn) :=
  of_row "CALL" 0x2000#16 0xF000#16 (by decide) rfl (formatA_mask _ nnn)

theorem seImm (x : Reg) (kk : Byte) : Statement (.seImm x kk) :=
  of_row "SE_IMM" 0x3000#16 0xF000#16 (by decide) rfl ((mask_F000_iff _ _).2 (fieldOp_formatXK _ x kk))

theorem sneImm (x : Reg) (kk : Byte) : Statement (.sneImm x kk) :=
  of_row "SNE_IMM" 0x4000#16 0xF000#16 (by decide) rfl ((mask_F000_iff _ _).2 (fieldOp_formatXK _ x kk))

theorem seReg (x y : Reg) : Statement (.seReg x y) :=
  of_row "SE_REG" 0x5000#16 0xF00F#16 (by decide) rfl (formatXYN_mask _ x y _)

theorem ldImm (x : Reg) (kk : Byte) : Statement (.ldImm x kk) :=
  of_row "LD_IMM" 0x6000#16 0xF000#16 (by decide) rfl ((mask_F000_iff _ _).2 (fieldOp_formatXK _ x kk))

theorem addImm (x : Reg) (kk : Byte) : Statement (.addImm x kk) :=
  of_row "ADD_IMM" 0x7000#16 0xF000#16 (by decide) rfl ((mask_F000_iff _ _).2 (fieldOp_formatXK _ x kk))

theorem ldReg (x y : Reg) : Statement (.ldReg x y) :=
  of_row "LD_REG" 0x8000#16 0xF00F#16 (by decide) rfl (formatXYN_mask _ x y _)

theorem orReg (x y : Reg) : Statement (.orReg x y) :=
  of_row "OR" 0x8001#16 0xF00F#16 (by decide) rfl (formatXYN_mask _ x y _)

theorem andReg (x y : Reg) : Statement (.andReg x y) :=
  of_row "AND" 0x8002#16 0xF00F#16 (by decide) rfl (formatXYN_mask _ x y _)

theorem xorReg (x y : Reg) : Statement (.xorReg x y) :=
  of_row "XOR" 0x8003#16 0xF00F#16 (by decide) rfl (formatXYN_mask _ x y _)

theorem addReg (x y : Reg) : Statement (.addReg x y) :=
  of_row "ADD_REG" 0x8004#16 0xF00F#16 (by decide) rfl (formatXYN_mask _ x y _)

theorem sub (x y : Reg) : Statement (.sub x y) :=
  of_row "SUB" 0x8005#16 0xF00F#16 (by decide) rfl (formatXYN_mask _ x y _)

theorem shr (x y : Reg) : Statement (.shr x y) :=
  of_row "SHR" 0x8006#16 0xF00F#16 (by decide) rfl (formatXYN_mask _ x y _)

theorem subn (x y : Reg) : Statement (.subn x y) :=
  of_row "SUBN" 0x8007#16 0xF00F#16 (by decide) rfl (formatXYN_mask _ x y _)

theorem shl (x y : Reg) : Statement (.shl x y) :=
  of_row "SHL" 0x800E#16 0xF00F#16 (by decide) rfl (formatXYN_mask _ x y _)

theorem sneReg (x y : Reg) : Statement (.sneReg x y) :=
  of_row "SNE_REG" 0x9000#16 0xF00F#16 (by decide) rfl (formatXYN_mask _ x y _)

theorem ldI (nnn : BitVec 12) : Statement (.ldI nnn) :=
  of_row "LD_I" 0xA000#16 0xF000#16 (by decide) rfl (formatA_mask _ nnn)

theorem jpV0 (nnn : BitVec 12) : Statement (.jpV0 nnn) :=
  of_row "JP_V0" 0xB000#16 0xF000#16 (by decide) rfl (formatA_mask _ nnn)

theorem rnd (x : Reg) (kk : Byte) : Statement (.rnd x kk) :=
  of_row "RND" 0xC000#16 0xF000#16 (by decide) rfl ((mask_F000_iff _ _).2 (fieldOp_formatXK _ x kk))

theorem drw (x y : Reg) (n : Nat) : Statement (.drw x y n) :=
  of_row "DRW" 0xD000#16 0xF000#16 (by decide) rfl ((mask_F000_iff _ _).2 (fieldOp_formatXYN _ x y _))

theorem skp (x : Reg) : Statement (.skp x) :=
  of_row "SKP" 0xE09E#16 0xF0FF#16 (by decide) rfl (formatXS_mask _ x _)

theorem sknp (x : Reg) : Statement (.sknp x) :=
  of_row "SKNP" 0xE0A1#16 0xF0FF#16 (by decide) rfl (formatXS_mask _ x _)

theorem ldVxDt (x : Reg) : Statement (.ldVxDt x) :=
  of_row "LD_VX_DT" 0xF007#16 0xF0FF#16 (by decide) rfl (formatXS_mask _ x _)

theorem ldVxK (x : Reg) : Statement (.ldVxK x) :=
  of_row "LD_VX_K" 0xF00A#16 0xF0FF#16 (by decide) rfl (formatXS_mask _ x _)

theorem ldDtVx (x : Reg) : Statement (.ldDtVx x) :=
  of_row "LD_DT_VX" 0xF015#16 0xF0FF#16 (by decide) rfl (formatXS_mask _ x _)

theorem ldStVx (x : Reg) : Statement (.ldStVx x) :=
  of_row "LD_ST_VX" 0xF018#16 0xF0FF#16 (by decide) rfl (formatXS_mask _ x _)

theorem addIVx (x : Reg) : Statement (.addIVx x) :=
  of_row "ADD_I_VX" 0xF01E#16 0xF0FF#16 (by decide) rfl (formatXS_mask _ x _)

theorem ldFVx (x : Reg) : Statement (.ldFVx x) :=
  of_row "LD_F_VX" 0xF029#16 0xF0FF#16 (by decide) rfl (formatXS_mask _ x _)

theorem ldBVx (x : Reg) : Statement (.ldBVx x) :=
  of_row "LD_B_VX" 0xF033#16 0xF0FF#16 (by decide) rfl (formatXS_mask _ x _)

theorem ldMemVx (x : Reg) : Statement (.ldMemVx x) :=
  of_row "LD_MEM_VX" 0xF055#16 0xF0FF#16 (by decide) rfl (formatXS_mask _ x _)

theorem ldVxMem (x : Reg) : Statement (.ldVxMem x) :=
  of_row "LD_VX_MEM" 0xF065#16 0xF0FF#16 (by decide) rfl (formatXS_mask _ x _)

end Sys2Proof.Laws.EncodeInRow
end

