-- ==== Sys2Proof/Tests/Slice0.lean ====
section
/-! SUPPORT. The model's own tests: the WellFormed check, every constructor's word written out from spec/30_encoding.md,
single steps with the results of spec/95_test_vectors.md (the row of that file is named at each), and for every
obligation with hypotheses a witness that meets them. -/

namespace Sys2Proof.Tests

open Sys2Proof Sys2Proof.Machine

/-! ### Helpers -/

/-- Reset with one word placed at 0x200. -/
def start (w : Word) : State := State.reset.placeAtPc (bytesOfWord w)

/-- Set a register. -/
def withReg (s : State) (x : Reg) (b : Byte) : State := s.setReg x b

/-- The state one step gives, if it gives one. -/
def after (s : State) : Option State :=
  match step s with
  | .next t => some t
  | .fault _ => none
  | .refused _ => none

/-- Look at one step: what `f` sees of the state it gives. -/
def seen {α : Type} (s : State) (f : State → α) : Option α := (after s).map f

/-- One instruction ended in a next state. -/
def completes (i : Instr) (s : State) : Bool :=
  match exec i s with
  | .next _ => true
  | .fault _ => false
  | .refused _ => false

/-! ### WellFormed -/

/-- R91: the count of DRW is 4 bits, so 16 is no count. -/
theorem test_wellFormed_refuses_drw_16 : Instr.wellFormed (.drw 0 0 16) = false := by decide
theorem test_wellFormed_admits_drw_15 : Instr.wellFormed (.drw 0 0 15) = true := by decide

/-! ### Decoding: words written out bit by bit from R95, operands by R91 -/

theorem test_decode_family_0 :
    decode 0b0000000011100000#16 = .ok .cls ∧ decode 0b0000000011101110#16 = .ok .ret := by decide

theorem test_decode_families_1_to_4 :
    decode 0b0001011110001001#16 = .ok (.jp 0x789#12) ∧
    decode 0b0010000100100011#16 = .ok (.call 0x123#12) ∧
    decode 0b0011101001000010#16 = .ok (.seImm 10 0x42#8) ∧
    decode 0b0100101001000010#16 = .ok (.sneImm 10 0x42#8) := by decide

theorem test_decode_families_5_to_7 :
    decode 0b0101101010110000#16 = .ok (.seReg 10 11) ∧
    decode 0b0110111100010010#16 = .ok (.ldImm 15 0x12#8) ∧
    decode 0b0111111100000001#16 = .ok (.addImm 15 0x01#8) := by decide

theorem test_decode_family_8 :
    decode 0b1000000100100000#16 = .ok (.ldReg 1 2) ∧
    decode 0b1000000100100001#16 = .ok (.orReg 1 2) ∧
    decode 0b1000000100100010#16 = .ok (.andReg 1 2) ∧
    decode 0b1000000100100011#16 = .ok (.xorReg 1 2) ∧
    decode 0b1000000100100100#16 = .ok (.addReg 1 2) ∧
    decode 0b1000000100100101#16 = .ok (.sub 1 2) ∧
    decode 0b1000000100100110#16 = .ok (.shr 1 2) ∧
    decode 0b1000000100100111#16 = .ok (.subn 1 2) ∧
    decode 0b1000000100101110#16 = .ok (.shl 1 2) := by decide

theorem test_decode_families_9_to_D :
    decode 0b1001101010110000#16 = .ok (.sneReg 10 11) ∧
    decode 0b1010000100100011#16 = .ok (.ldI 0x123#12) ∧
    decode 0b1011111111111111#16 = .ok (.jpV0 0xFFF#12) ∧
    decode 0b1100001000001111#16 = .ok (.rnd 2 0x0F#8) ∧
    decode 0b1101000100100101#16 = .ok (.drw 1 2 5) := by decide

theorem test_decode_family_E :
    decode 0b1110010110011110#16 = .ok (.skp 5) ∧ decode 0b1110010110100001#16 = .ok (.sknp 5) := by decide

theorem test_decode_family_F :
    decode 0b1111010000000111#16 = .ok (.ldVxDt 4) ∧
    decode 0b1111001100001010#16 = .ok (.ldVxK 3) ∧
    decode 0b1111001100010101#16 = .ok (.ldDtVx 3) ∧
    decode 0b1111000000011000#16 = .ok (.ldStVx 0) ∧
    decode 0b1111010000011110#16 = .ok (.addIVx 4) ∧
    decode 0b1111000000101001#16 = .ok (.ldFVx 0) ∧
    decode 0b1111000000110011#16 = .ok (.ldBVx 0) ∧
    decode 0b1111001001010101#16 = .ok (.ldMemVx 2) ∧
    decode 0b1111001001100101#16 = .ok (.ldVxMem 2) := by decide

/-- Rejected as an illegal word. -/
def rejected (w : Word) : Bool := decode w == .error (.illegalWord w)

/-- The illegal words listed under E11 of spec/95_test_vectors.md. -/
theorem test_decode_illegal_words :
    (rejected 0x0000#16 && rejected 0x00E1#16 && rejected 0x0123#16 && rejected 0x5121#16 && rejected 0x8128#16 &&
      rejected 0x812F#16 && rejected 0x9121#16 && rejected 0xE19F#16 && rejected 0xE1A0#16 && rejected 0xF100#16 &&
      rejected 0xF1FF#16) = true := by decide

/-- R90: an instruction is two bytes; fewer are rejected by name. -/
theorem test_decodeBytes_too_few :
    decodeBytes [] = .error (.tooFewBytes 0) ∧ decodeBytes [0x12#8] = .error (.tooFewBytes 1) ∧
    decodeBytes [0x17#8, 0x89#8, 0x55#8] = .ok (.jp 0x789#12, [0x55#8]) := by decide

/-- R101, R102 and the listings of P2, P3 and P6. -/
theorem test_text :
    Instr.text (.drw 1 2 5) = "DRW V1, V2, 5" ∧ Instr.text (.jp 0x789#12) = "JP 0x789" ∧
    Instr.text (.ldImm 10 0xFF#8) = "LD VA, 0xFF" ∧ Instr.text (.ldMemVx 1) = "LD [I], V1" := by decide

/-- The table word, numbered as spec/opcode_table.json numbers it: one 16-bit word. -/
theorem test_decodeTableWord : decodeTableWord 16 0x1789 = some (.jp 0x789#12) ∧ decodeTableWord 16 0x0000 = none := by
  decide

/-- A placed table word is the next instruction: R142 through R66. -/
theorem test_withFetchWord_runs : seen (State.reset.withFetchWord 16 0x1789) (·.pc) = some 0x789#16 := by decide

/-! ### Fetch, load and the engine cycle -/

/-- E1: big-endian fetch. -/
theorem test_fetch_big_endian :
    seen (State.reset.placeAtPc [0xA2#8, 0x34#8]) (fun t => (t.i, t.pc)) = some (0x0234#16, 0x202#16) := by decide

/-- E5: the last word of memory. -/
theorem test_fetch_last_word :
    seen ((State.reset.setPc 0xFFE#16).placeAtPc [0x60#8, 0x11#8]) (fun t => (t.reg 0, t.pc)) =
      some (0x11#8, 0x1000#16) := by decide

/-- E6, E7: the fetch errors. -/
theorem test_fetch_errors :
    step (State.reset.setPc 0x1000#16) = .fault (.addressError 0x1000 0x1000#16) ∧
    step (State.reset.setPc 0xFFF#16) = .fault (.addressError 0x1000 0xFFF#16) := ⟨rfl, rfl⟩

/-- E8, E11: both timers count down first, and stop at 0. -/
theorem test_timer_phase :
    seen (((start 0x6000#16).setDt 5#8).setSt 3#8) (fun t => (t.dt, t.st)) = some (4#8, 2#8) ∧
    seen (start 0x6000#16) (fun t => (t.dt, t.st)) = some (0#8, 0#8) := by decide

/-- E9, E10: an illegal word raises its error and the state stays; so again. -/
theorem test_decode_error_rolls_back :
    let s := ((start 0x8008#16).setDt 5#8).setSt 3#8
    hostCall .step s = .next (s, .err (.decodeError 0x8008#16 0x200#16)) := rfl

/-- E4: the empty program. -/
theorem test_empty_program : step State.reset = .fault (.decodeError 0x0000#16 0x200#16) := rfl

/-- E3: one byte too long. -/
theorem test_load_error : load 0 (List.replicate 3585 0x00#8) = .fault (.loadError 3585) := by
  rw [load, if_pos (by rw [List.length_replicate]; decide), List.length_replicate]

/-- T1: the jump example of the source, loaded. -/
theorem test_load_and_jump :
    (match load 0 [0x17#8, 0x89#8] with
      | .next s => seen s (fun t => (t.pc, t.sp))
      | .fault _ => none
      | .refused _ => none) = some (0x789#16, 0#8) := by decide

/-! ### Control flow -/

/-- T2 (c). -/
theorem test_ret :
    seen ((start 0x00EE#16).push (by decide) 0x202#16 0x200#16) (fun t => (t.pc, t.sp, t.slot 0)) =
      some (0x202#16, 0#8, 0x202#16) := by decide
/-- CF1, at 0x200. -/
theorem test_ret_underflow : step (start 0x00EE#16) = .fault (.stackUnderflow 0x200#16) := rfl
/-- CF4: an odd target is legal. -/
theorem test_jp : seen (start 0x1301#16) (·.pc) = some 0x301#16 := by decide
/-- CF5. -/
theorem test_call :
    seen (start 0x2400#16) (fun t => (t.slot 0, t.sp, t.pc)) = some (0x202#16, 1#8, 0x400#16) := by decide
/-- CF6. -/
theorem test_call_overflow :
    let s := start 0x2400#16
    exec (.call 0x400#12) { s with sp := 16#8 } = .fault (.stackOverflow 0x200#16) := rfl
/-- CF9. -/
theorem test_jp_v0 : seen (withReg (start 0xBFFF#16) 0 0xFF#8) (·.pc) = some 0x10FE#16 := by decide
/-- CF10, CF11. -/
theorem test_se_imm :
    seen (withReg (start 0x3A42#16) 10 0x42#8) (·.pc) = some 0x204#16 ∧
    seen (withReg (start 0x3A42#16) 10 0x41#8) (·.pc) = some 0x202#16 := by decide
/-- CF12, CF13. -/
theorem test_sne_imm :
    seen (withReg (start 0x4A42#16) 10 0x42#8) (·.pc) = some 0x202#16 ∧
    seen (start 0x4A42#16) (·.pc) = some 0x204#16 := by decide
/-- CF14, CF15. -/
theorem test_se_reg :
    seen (withReg (withReg (start 0x5AB0#16) 10 7#8) 11 7#8) (·.pc) = some 0x204#16 ∧
    seen (withReg (withReg (start 0x5AB0#16) 10 7#8) 11 8#8) (·.pc) = some 0x202#16 := by decide
/-- CF17, CF18. -/
theorem test_sne_reg :
    seen (withReg (withReg (start 0x9AB0#16) 10 7#8) 11 8#8) (·.pc) = some 0x204#16 ∧
    seen (withReg (withReg (start 0x9AB0#16) 10 7#8) 11 7#8) (·.pc) = some 0x202#16 := by decide

/-! ### ALU -/

/-- What a flag writer leaves in V0 and VF. -/
def v0f (t : State) : Byte × Byte := (t.reg 0, t.reg 15)

/-- A start state with V0, V1 and VF. -/
def alu (w : Word) (v0 v1 vf : Byte) : State := withReg (withReg (withReg (start w) 0 v0) 1 v1) 15 vf

/-- A1. -/
theorem test_ld_imm : seen (start 0x6F12#16) (fun t => t.reg 15) = some 0x12#8 := by decide
/-- A2, A3. -/
theorem test_add_imm :
    seen (alu 0x7001#16 0xFF#8 0#8 0x55#8) v0f = some (0x00#8, 0x55#8) ∧
    seen (alu 0x7F01#16 0#8 0#8 0xFF#8) v0f = some (0x00#8, 0x00#8) := by decide
/-- A4. -/
theorem test_ld_reg : seen (alu 0x8010#16 0#8 0x42#8 0#8) v0f = some (0x42#8, 0#8) := by decide
/-- A5: VF is not reset. -/
theorem test_or : seen (alu 0x8011#16 0xF0#8 0x0F#8 0x77#8) v0f = some (0xFF#8, 0x77#8) := by decide
/-- A6. -/
theorem test_and : seen (alu 0x8012#16 0xF0#8 0x3C#8 0x77#8) v0f = some (0x30#8, 0x77#8) := by decide
/-- A7, A8. -/
theorem test_xor :
    seen (alu 0x8013#16 0xF0#8 0x3C#8 0#8) v0f = some (0xCC#8, 0#8) ∧
    seen (alu 0x8003#16 0x5A#8 0#8 0#8) v0f = some (0x00#8, 0#8) := by decide
/-- T3. -/
theorem test_add_reg :
    seen (alu 0x8014#16 0xFA#8 0x13#8 0#8) v0f = some (0x0D#8, 1#8) ∧
    seen (alu 0x8014#16 0x03#8 0x05#8 0#8) v0f = some (0x08#8, 0#8) := by decide
/-- A13, A14: VF as destination holds the flag; VF as operand is its old value. -/
theorem test_add_reg_vf :
    seen (alu 0x8F14#16 0#8 0x20#8 0x10#8) v0f = some (0#8, 0#8) ∧
    seen (alu 0x80F4#16 0xF0#8 0#8 0x20#8) v0f = some (0x10#8, 1#8) := by decide
/-- T4. -/
theorem test_sub :
    seen (alu 0x8015#16 25#8 12#8 0#8) v0f = some (13#8, 1#8) ∧
    seen (alu 0x8015#16 0x13#8 0x15#8 0#8) v0f = some (0xFE#8, 0#8) := by decide
/-- A15, A18: the comparison is strict; the flag wins over the difference. -/
theorem test_sub_equal_and_vf :
    seen (alu 0x8015#16 0x42#8 0x42#8 1#8) v0f = some (0#8, 0#8) ∧
    seen (alu 0x8F15#16 0#8 0x03#8 0x05#8) v0f = some (0#8, 1#8) := by decide
/-- A20, A23. -/
theorem test_shr :
    seen (alu 0x8006#16 0x05#8 0#8 0#8) v0f = some (0x02#8, 1#8) ∧
    seen (alu 0x8016#16 0x04#8 0xFF#8 1#8) v0f = some (0x02#8, 0#8) := by decide
/-- A25. -/
theorem test_shr_vf : seen (alu 0x8F06#16 0#8 0#8 0x03#8) v0f = some (0#8, 1#8) := by decide
/-- A26, A27. -/
theorem test_subn :
    seen (alu 0x8017#16 12#8 25#8 0#8) v0f = some (13#8, 1#8) ∧
    seen (alu 0x8017#16 0x15#8 0x13#8 1#8) v0f = some (0xFE#8, 0#8) := by decide
/-- A29, A30. -/
theorem test_shl :
    seen (alu 0x800E#16 0x81#8 0#8 0#8) v0f = some (0x02#8, 1#8) ∧
    seen (alu 0x800E#16 0x40#8 0#8 1#8) v0f = some (0x80#8, 0#8) := by decide
/-- A34: whatever byte is drawn, no bit outside the mask survives. -/
theorem test_rnd : seen (start 0xC200#16) (fun t => (t.reg 2, t.pc)) = some (0x00#8, 0x202#16) := by
  have h : step (start 0xC200#16) = exec (.rnd 2 0x00#8) (start 0xC200#16).tick := rfl
  have hpc : (start 0xC200#16).pc = 0x200#16 := rfl
  simp only [seen, after, h]
  simp [exec, execRnd, hpc]

/-- A33: the byte drawn is the step's input. -/
theorem test_rnd_draw :
    (match coreStep 0xA5#8 (start 0xC20F#16).toCoreState with
      | .next c => some (c.v[2], c.pc)
      | .fault _ => none
      | .refused _ => none) = some (0x05#8, 0x202#16) := by decide

/-! ### Index register and memory -/

/-- M1. -/
theorem test_ld_i : seen ((start 0xA123#16).setI 0xFFFF#16) (·.i) = some 0x0123#16 := by decide
/-- M3, M4. -/
theorem test_add_i_vx :
    seen ((alu 0xF01E#16 2#8 0#8 0#8).setI 0xFFFF#16) (·.i) = some 0x0001#16 ∧
    seen ((alu 0xF01E#16 1#8 0#8 0#8).setI 0x0FFF#16) (fun t => (t.i, t.reg 15)) = some (0x1000#16, 0#8) := by decide
/-- M5, M8. -/
theorem test_ld_f_vx :
    seen (alu 0xF029#16 0x0A#8 0#8 0#8) (·.i) = some 0x0032#16 ∧
    seen (alu 0xF029#16 0xFF#8 0#8 0#8) (·.i) = some 0x04FB#16 := by decide
/-- T5. -/
theorem test_ld_b_vx :
    seen ((alu 0xF033#16 223#8 0#8 0#8).setI 0x300#16) (fun t => (t.byte 0x300, t.byte 0x301, t.byte 0x302, t.i)) =
      some (2#8, 2#8, 3#8, 0x300#16) := by decide
/-- M13, M14. -/
theorem test_ld_b_vx_error :
    step ((start 0xF033#16).setI 0xFFE#16) = .fault (.addressError 0x1000 0x200#16) ∧
    step ((start 0xF033#16).setI 0x2000#16) = .fault (.addressError 0x2000 0x200#16) := ⟨rfl, rfl⟩
/-- M15. -/
theorem test_ld_mem_vx :
    seen ((withReg (alu 0xF255#16 1#8 2#8 0#8) 2 3#8).setI 0x300#16)
      (fun t => (t.byte 0x300, t.byte 0x301, t.byte 0x302, t.i)) = some (1#8, 2#8, 3#8, 0x300#16) := by decide
/-- M17. -/
theorem test_ld_mem_vx_error :
    step ((start 0xFF55#16).setI 0xFF1#16) = .fault (.addressError 0x1000 0x200#16) := rfl
/-- M19. -/
theorem test_ld_vx_mem :
    seen (((start 0xF265#16).setMem (memStore (start 0xF265#16).mem 0x300 [1#8, 2#8, 3#8])).setI 0x300#16)
      (fun t => (t.reg 0, t.reg 1, t.reg 2, t.reg 3, t.i)) = some (1#8, 2#8, 3#8, 0#8, 0x300#16) := by decide
/-- M22. -/
theorem test_ld_vx_mem_error :
    step ((start 0xF165#16).setI 0xFFF#16) = .fault (.addressError 0x1000 0x200#16) := rfl

/-! ### Display -/

/-- A display with one pixel lit. -/
def lit (x : Fin 64) (y : Fin 32) : Framebuffer := setPixel Framebuffer.clear x y true

/-- D1. -/
theorem test_cls : seen ((start 0x00E0#16).setFb (lit 63 31)) (fun t => getPixel t.fb 63 31) = some false := by decide
/-- D2: the sprite wraps around both edges. -/
theorem test_drw_wraps :
    seen (((alu 0xD012#16 60#8 31#8 0#8).setMem
        (memStore (start 0xD012#16).mem 0x212 [0xFF#8, 0x81#8])).setI 0x212#16)
      (fun t => ([getPixel t.fb 63 31, getPixel t.fb 3 31, getPixel t.fb 4 31, getPixel t.fb 60 0, getPixel t.fb 3 0,
        getPixel t.fb 61 0], t.reg 15)) = some ([true, true, false, true, true, false], 0#8) := by decide
/-- D9: a covered lit pixel goes out and is reported. -/
theorem test_drw_collides :
    seen ((((start 0xD001#16).setMem (memStore (start 0xD001#16).mem 0x300 [0xC0#8])).setI 0x300#16).setFb (lit 0 0))
      (fun t => (getPixel t.fb 0 0, getPixel t.fb 1 0, t.reg 15)) = some (false, true, 1#8) := by decide
/-- R212, by hand: a sprite on a lit pixel, drawn twice, reports a collision the first time only (log 12). -/
theorem test_draw_twice_on_lit_pixel :
    let d := drawSprite (lit 0 0) 0#8 0#8 [0x80#8]
    (d.2, (drawSprite d.1 0#8 0#8 [0x80#8]).2) = (true, false) := by decide
/-- D5. -/
theorem test_drw_error : step ((start 0xD012#16).setI 0xFFF#16) = .fault (.addressError 0x1000 0x200#16) := rfl

/-! ### Keypad -/

/-- K1, K2. -/
theorem test_skp :
    seen ((alu 0xE09E#16 5#8 0#8 0#8).setKey 5 true) (·.pc) = some 0x204#16 ∧
    seen (alu 0xE09E#16 5#8 0#8 0#8) (·.pc) = some 0x202#16 := by decide
/-- K5. -/
theorem test_skp_error : step (alu 0xE09E#16 0x10#8 0#8 0#8) = .fault (.invalidKey 0x10#8 0x200#16) := rfl
/-- K3, K4. -/
theorem test_sknp :
    seen (alu 0xE0A1#16 5#8 0#8 0#8) (·.pc) = some 0x204#16 ∧
    seen ((alu 0xE0A1#16 5#8 0#8 0#8).setKey 5 true) (·.pc) = some 0x202#16 := by decide
/-- K6. -/
theorem test_sknp_error : step (alu 0xE0A1#16 0xFF#8 0#8 0#8) = .fault (.invalidKey 0xFF#8 0x200#16) := rfl
/-- K7, K12. -/
theorem test_ld_vx_k :
    seen (start 0xF30A#16) (fun t => (t.latch, t.pc)) = some (.waiting, 0x200#16) ∧
    seen ((start 0xFF0A#16).setLatch (.resolved 3)) (fun t => (t.reg 15, t.latch, t.pc)) =
      some (3#8, .idle, 0x202#16) := by decide
/-- K13, one of its two steps: the timers run during a wait. -/
theorem test_ld_vx_k_waits :
    seen (((start 0xF30A#16).setLatch .waiting).setDt 5#8) (fun t => (t.dt, t.latch, t.pc)) =
      some (4#8, .waiting, 0x200#16) := by decide
/-- K9, K10, K14. -/
theorem test_key_events :
    (State.reset.releaseKey 3).latch = .idle ∧
    ((State.reset.setLatch .waiting).pressKey 7).latch = .waiting ∧
    ((State.reset.setLatch .waiting).pressKey 7).key 7 = true ∧
    (((State.reset.setKey 2 true).setLatch .waiting).releaseKey 2).latch = .resolved 2 ∧
    (((State.reset.setKey 2 true).setLatch .waiting).releaseKey 2).key 2 = false := by decide

/-! ### Timers -/

/-- TM1. -/
theorem test_ld_vx_dt : seen ((start 0xF407#16).setDt 10#8) (fun t => (t.reg 4, t.dt)) = some (9#8, 9#8) := by decide
/-- TM3. -/
theorem test_ld_dt_vx : seen ((withReg (start 0xF315#16) 3 0x0A#8).setDt 3#8) (·.dt) = some 0x0A#8 := by decide
/-- TM4, TM5. -/
theorem test_ld_st_vx :
    seen (alu 0xF018#16 1#8 0#8 0#8) (fun t => (t.st, soundActive t)) = some (1#8, true) ∧
    seen (alu 0xF018#16 0#8 0#8 0#8) (fun t => (t.st, soundActive t)) = some (0#8, false) := by decide

/-! ### Witnesses: states and operands that meet the hypotheses of each obligation, at the edges of their ranges

A clause of the form `RowDecodes pattern mask f` has the hypothesis `w &&& mask = pattern`;
`witness_rowDecodes` meets it for every row of R95, with all operand bits 0 and with all of them 1. -/

theorem witness_rowDecodes :
    opcodeRows.all (fun row => row.matches row.pattern && row.matches (row.pattern ||| ~~~row.mask)) = true := by decide

theorem witness_DecodeOfEncode :
    Instr.wellFormed (.drw 15 0 15) = true ∧ Instr.wellFormed (.drw 0 15 0) = true ∧
    Instr.wellFormed (.jp 0xFFF#12) = true := by decide

theorem witness_EncodeOfDecode : decode 0xDFFF#16 = .ok (.drw 15 15 15) ∧ decode 0x00EE#16 = .ok .ret := by decide

theorem witness_LegalWordsMatchOneRow :
    decode 0x8FFE#16 = .ok (.shl 15 15) ∧ ⟨"SHL", 0x800E, 0xF00F⟩ ∈ opcodeRows ∧
    OpcodeRow.matches ⟨"SHL", 0x800E, 0xF00F⟩ 0x8FFE#16 = true := by decide

theorem witness_SourceExampleWordsDecode : ∃ s, load 0 [0x17#8, 0x89#8] = .next s := ⟨_, rfl⟩

/-- One illegal word for each row of R98's table, each on the edge of its range. -/
theorem witness_IllegalWord :
    IllegalWord 0x00E1#16 ∧ IllegalWord 0x5FFF#16 ∧ IllegalWord 0x8FFF#16 ∧ IllegalWord 0x9FF1#16 ∧
    IllegalWord 0xEF9F#16 ∧ IllegalWord 0xFF64#16 := by
  refine ⟨.inl ?_, .inr (.inl ?_), .inr (.inr (.inl ?_)), .inr (.inr (.inr (.inl ?_))),
    .inr (.inr (.inr (.inr (.inl ?_)))), .inr (.inr (.inr (.inr (.inr ?_))))⟩ <;> decide

theorem witness_IllegalWordsAreTheTable : fetch (start 0x00E1#16) = .ok 0x00E1#16 ∧ IllegalWord 0x00E1#16 :=
  ⟨rfl, witness_IllegalWord.1⟩

/-- A start state at the last word of memory. -/
def startAtTop (w : Word) : State := (State.reset.setPc 0xFFE#16).placeAtPc (bytesOfWord w)

theorem witness_StepRunsDecodedInstruction :
    (startAtTop 0x6011#16).pc.toNat + 1 < 4096 ∧
    decode (wordOfBytes ((startAtTop 0x6011#16).byte (startAtTop 0x6011#16).pc.toNat)
      ((startAtTop 0x6011#16).byte ((startAtTop 0x6011#16).pc.toNat + 1))) = .ok (.ldImm 0 0x11#8) := ⟨by decide, rfl⟩

theorem witness_FetchReadsTwoBytesBigEndian :
    (State.reset.setPc 0xFFE#16).pc.toNat ≤ 0xFFE ∧ (State.reset.setPc 0xFFF#16).pc.toNat = 0xFFF ∧
    0x1000 ≤ (State.reset.setPc 0x1000#16).pc.toNat := by decide

theorem witness_step_next : ∃ t, step (start 0x6011#16) = .next t := ⟨_, rfl⟩
theorem witness_step_fault : step State.reset = .fault (.decodeError 0x0000#16 0x200#16) := rfl

theorem witness_TimerPhaseComesFirst :
    (∃ t, step (start 0x6011#16) = .next t) ∧ ∃ f, step State.reset = .fault f := ⟨witness_step_next, _, rfl⟩

theorem witness_StepCommitsOrRollsBack :
    (∃ t, step (start 0x6011#16) = .next t) ∧ ∃ f, step State.reset = .fault f := ⟨witness_step_next, _, rfl⟩

theorem witness_DecodeErrorRepeats : fetch (start 0xFF64#16) = .ok 0xFF64#16 ∧ IllegalWord 0xFF64#16 :=
  ⟨rfl, witness_IllegalWord.2.2.2.2.2⟩

theorem witness_ErrorIsPermanent :
    step State.reset = .fault (.decodeError 0x0000#16 0x200#16) ∧
    (∀ op ∈ [HostOp.step, .keyPressed 15, .keyReleased 0, .step], op.isStepOrKey = true) ∧
    (∀ op ∈ [HostOp.step, .keyPressed 15], ∀ rom, op ≠ .load rom) ∧
    ∃ t, hostRun [.step, .keyPressed 15] State.reset = some t :=
  ⟨rfl, by decide, fun op h rom => by rcases op with _ | _ | _ | _ | _ | _ | _ <;> simp at h ⊢, _, rfl⟩

/-- Reset with another `sp`. -/
def withSp (s : State) (sp : BitVec 8) : State := { s with sp := sp }

/-- Each row of the table with an error, and a state that meets its condition at the edge. -/
theorem witness_InstructionErrorsAreTheTable :
    raised .ret (withSp State.reset 0#8) = some (.stackUnderflow 0x200#16) ∧
    raised (.call 0#12) (withSp State.reset 16#8) = some (.stackOverflow 0x200#16) ∧
    raised (.call 0#12) (withSp State.reset 15#8) = none ∧
    raised (.drw 0 0 1) (State.reset.setI 0x1000#16) = some (.addressError 0x1000 0x200#16) ∧
    raised (.drw 0 0 1) (State.reset.setI 0xFFF#16) = none ∧
    raised (.skp 0) (State.reset.setReg 0 16#8) = some (.invalidKey 16#8 0x200#16) ∧
    raised (.ldBVx 0) (State.reset.setI 0xFFE#16) = some (.addressError 0x1000 0x200#16) ∧
    (withSp State.reset 16#8).sp.toNat ≤ 16 := by decide

theorem witness_StepErrorsInOrder :
    State.reset.sp.toNat ≤ 16 ∧ stepRaised (State.reset.setPc 0xFFFF#16) = some (.addressError 0xFFFF 0xFFFF#16) ∧
    stepRaised (State.reset.setPc 0xFFF#16) = some (.addressError 0x1000 0xFFF#16) ∧
    stepRaised (start 0x00E1#16) = some (.decodeError 0x00E1#16 0x200#16) ∧
    stepRaised (start 0x00EE#16) = some (.stackUnderflow 0x200#16) ∧ stepRaised (start 0x6000#16) = none := by
  refine ⟨by decide, rfl, rfl, rfl, rfl, rfl⟩

/-- The invariant, of a state in the middle of a key wait with a deep stack. -/
theorem witness_StepKeepsInvariant :
    let s := (withSp (start 0xF30A#16) 16#8).setLatch .waiting
    Inv s ∧ ∃ t, step s = .next t := by
  refine ⟨⟨rfl, by decide, by decide, fun j => ?_, fun _ => ⟨3, rfl⟩⟩, _, rfl⟩
  show (((Vector.replicate 16 0x0000#16)[j]?).getD 0#16).toNat ≤ 0x1000
  rw [Vector.getElem?_replicate]
  split <;> decide

theorem witness_ReachableEnginesMeetInvariant :
    ∃ s t : State, load 0 [0xF3#8, 0x0A#8] = .next s ∧ Reachable s ∧ hostCall .step s = .next (t, .ok) ∧ Reachable t ∧
      t.latch = .waiting := by
  have h : Reachable _ := .loaded 0 [0xF3#8, 0x0A#8] _ rfl
  exact ⟨_, _, rfl, h, rfl, .called .step _ _ _ h rfl, rfl⟩

theorem witness_RegistersWrittenOnlyAsListed :
    (∃ t, exec (.addReg 0 1) State.reset = .next t) ∧ ¬ writesReg (.addReg 0 1) State.reset 1 :=
  ⟨⟨_, rfl⟩, by simp [writesReg]⟩

theorem witness_FlagWrittenZeroOrOne :
    (∃ t, exec (.shl 15 0) State.reset = .next t) ∧ writesFlag (.shl 15 0) ∧
    (∃ t, exec (.addImm 14 0xFF#8) State.reset = .next t) ∧ ¬ writesFlag (.addImm 14 0xFF#8) ∧
    ¬ namesVFAsDestination (.addImm 14 0xFF#8) :=
  ⟨⟨_, rfl⟩, trivial, ⟨_, rfl⟩, by simp [writesFlag], by simp [namesVFAsDestination]⟩

theorem witness_OtherPartsKeepTheirValue : ∃ t, exec .cls State.reset = .next t := ⟨_, rfl⟩

theorem witness_MemoryWrittenOnlyByStores :
    let s := (alu 0xF055#16 0x99#8 0#8 0#8).setI 0xFFF#16
    ∃ t r, hostCall .step s = .next (t, r) ∧ (∀ rom, HostOp.step ≠ .load rom) ∧ t.byte 0xFFF ≠ s.byte 0xFFF :=
  ⟨_, _, rfl, ⟨fun _ => HostOp.noConfusion, by decide⟩⟩

/-- A skip at the last word: the table's greatest sum, 0x1002. -/
theorem witness_NextPcIsTheTable :
    (State.reset.setPc 0xFFE#16).pc.toNat ≤ 0xFFE ∧
    (∃ t, exec (.seImm 0 0#8) (State.reset.setPc 0xFFE#16) = .next t) ∧
    nextPc (.seImm 0 0#8) (State.reset.setPc 0xFFE#16) = 0x1002 := ⟨by decide, ⟨_, rfl⟩, rfl⟩

theorem witness_KeypadAndSoundTimerAreUnread :
    (∀ x, Instr.cls ≠ .skp x ∧ Instr.cls ≠ .sknp x) ∧ (∀ x, Instr.cls ≠ .ldVxK x) ∧ (∀ x, Instr.cls ≠ .ldStVx x) ∧
    ∃ t, exec .cls State.reset = .next t :=
  ⟨fun _ => ⟨by simp, by simp⟩, fun _ => by simp, fun _ => by simp, _, rfl⟩

theorem witness_NothingButTheTupleIsState :
    (∀ x kk, Instr.cls ≠ .rnd x kk) ∧ (∃ t, exec .cls State.reset = .next t) ∧
    (∃ t, exec (.rnd 2 0x0F#8) State.reset = .next t) ∧
    Config.randByte State.reset.draws = Config.randByte State.reset.draws ∧
    exec .ret State.reset = .fault (.stackUnderflow 0x200#16) ∧
    step State.reset = .fault (.decodeError 0x0000#16 0x200#16) :=
  ⟨fun _ _ => by simp, ⟨_, rfl⟩, ⟨_, rfl⟩, rfl, rfl, rfl⟩

theorem witness_StepIsTheTuplesStepOnTheNextByte : ∀ x kk, Instr.ret ≠ .rnd x kk := fun _ _ => by simp

theorem witness_CallPushesReturnAddress :
    (withSp State.reset 15#8).sp.toNat < 16 ∧ (withSp State.reset 16#8).sp.toNat = 16 := by decide

theorem witness_ReturnPopsAddress :
    (0 < (withSp State.reset 1#8).sp.toNat ∧ (withSp State.reset 1#8).sp.toNat ≤ 16) ∧
    (0 < (withSp State.reset 16#8).sp.toNat ∧ (withSp State.reset 16#8).sp.toNat ≤ 16) ∧
    (withSp State.reset 0#8).sp.toNat = 0 := by decide

theorem witness_ReturnUndoesCall :
    ∃ t u : State, exec (.call 0x400#12) (withSp State.reset 15#8) = .next t ∧ u.sp = t.sp ∧ ∀ j, u.slot j = t.slot j :=
  ⟨_, _, rfl, rfl, fun _ => rfl⟩

theorem witness_StackPointerAboveSixteenStops : 16 < (withSp State.reset 17#8).sp.toNat := by decide

theorem witness_RegisterSkips : State.reset.reg 15 = 0#8 ∧ State.reset.reg 15 ≠ 1#8 := by decide

theorem witness_DecimalDigitsAreStored :
    memoryWf (State.reset.setI 0xFFD#16).mem = true ∧ (State.reset.setI 0xFFD#16).addrI + 2 < 4096 ∧
    4096 ≤ (State.reset.setI 0xFFE#16).addrI + 2 := by decide

theorem witness_RegistersAreStored :
    memoryWf (State.reset.setI 0xFF0#16).mem = true ∧ (State.reset.setI 0xFF0#16).addrI + (15 : Reg).val < 4096 ∧
    4096 ≤ (State.reset.setI 0xFF1#16).addrI + (15 : Reg).val := by decide

theorem witness_RegistersAreLoaded :
    (State.reset.setI 0xFFF#16).addrI + (0 : Reg).val < 4096 ∧
    4096 ≤ (State.reset.setI 0x1000#16).addrI + (0 : Reg).val := by decide

theorem witness_StoredRegistersLoadBack :
    let s := (State.reset.setReg 0 0x99#8).setI 0xFF0#16
    ∃ t u : State, memoryWf s.mem = true ∧ exec (.ldMemVx 15) s = .next t ∧ u.i = t.i ∧ ∀ a, u.byte a = t.byte a :=
  ⟨_, _, rfl, rfl, rfl, fun _ => rfl⟩

theorem witness_StoreIsSeenByTheNextFetch :
    let s := (State.reset.setPc 0xFEE#16).setI 0xFF0#16
    memoryWf s.mem = true ∧ 1 ≤ (15 : Reg).val ∧ s.i = s.pc + 2#16 ∧ s.addrI + (15 : Reg).val < 4096 :=
  ⟨rfl, by decide, rfl, by decide⟩

/-- The ranges of DRW: the greatest sprite at the end of memory, no sprite at all beyond it, one byte too far. -/
theorem witness_DrawXorsSpriteIntoDisplay :
    (15 < 16 ∧ (State.reset.setI 0xFF1#16).addrI + 15 ≤ 4096) ∧ (0 < 16 ∧ 0 = 0) ∧
    (0 < 15 ∧ 4096 < (State.reset.setI 0xFF2#16).addrI + 15) := by decide

/-- Both cases of DRW's flag: a lit pixel under a 1 bit, and no lit pixel. -/
theorem witness_DrawXorsSpriteIntoDisplay_flag :
    let s := ((State.reset.setMem (memStore [] 0x300 [0x80#8])).setI 0x300#16).setFb (lit 0 0)
    (getPixel s.fb 0 0 = true ∧ spriteBit (s.reg 0).toNat (s.reg 0).toNat (spriteRows s 1) 0 0 = true) ∧
    ∀ px py, getPixel (State.reset.setI 0x300#16).fb px py = true →
      spriteBit 0 0 (spriteRows (State.reset.setI 0x300#16) 1) px py = false :=
  ⟨⟨rfl, rfl⟩, fun px py h => by
    have h' : getPixel Framebuffer.clear px py = true := h
    rw [getPixel_clear] at h'; cases h'⟩

theorem witness_SpriteWriterProperties :
    ((14 < 15 ∧ 7 < 8) ∧ ¬ (14 = 0 ∧ 7 = 7) ∧ (63 + 7) % 64 = (63 + 7) % 64 ∧ (31 + 14) % 32 = (31 + 14) % 32) ∧
    (List.replicate 15 0xFF#8).length ≤ 15 ∧ (drawSprite (lit 1 0) 0#8 0#8 [0x80#8]).2 = false := by decide

theorem witness_KeySkips :
    ((State.reset.setReg 0 15#8).reg 0).toNat = (15 : Fin 16).val ∧ 15 < ((State.reset.setReg 0 16#8).reg 0).toNat := by
  decide

theorem witness_KeyWaitPollsTheLatch :
    State.reset.latch = .idle ∧ (State.reset.setLatch .waiting).latch = .waiting ∧
    (State.reset.setLatch (.resolved 15)).latch = .resolved 15 := by decide

theorem witness_KeyEventsSetLevelsAndLatch :
    (State.reset.setLatch .waiting).latch = .waiting ∧ State.reset.latch ≠ .waiting ∧ 16 ≤ 16 := by decide

theorem witness_LatchTransitions :
    (∃ t, exec (.ldVxK 0) State.reset = .next t ∧ t.latch ≠ State.reset.latch) ∧
    (∃ t, keyPressed 15 State.reset = .next t) ∧
    ∃ t, keyReleased (15 : Fin 16).val (State.reset.setLatch .waiting) = .next t ∧
      t.latch ≠ (State.reset.setLatch .waiting).latch :=
  ⟨⟨_, rfl, by decide⟩, ⟨_, rfl⟩, _, rfl, by decide⟩

theorem witness_WaitEndsWithTheReleaseAfterItBegan :
    fetchInstr (start 0xF30A#16) = .ok (.ldVxK 3) ∧ (start 0xF30A#16).latch = .idle := ⟨rfl, rfl⟩

theorem witness_TimerInstructions :
    fetchInstr (start 0xF407#16) = .ok (.ldVxDt 4) ∧ fetchInstr (start 0xF315#16) = .ok (.ldDtVx 3) ∧
    fetchInstr (start 0xF018#16) = .ok (.ldStVx 0) := ⟨rfl, rfl, rfl⟩

/-- A timer write before the two words of a loop that writes neither timer. -/
def timerLoop (w : Word) : State :=
  State.reset.placeAtPc (bytesOfWord w ++ bytesOfWord 0x6000#16 ++ bytesOfWord 0x1202#16)

theorem witness_TimersCountSteps :
    (fetchInstr (timerLoop 0xF315#16) = .ok (.ldDtVx 3) ∧
      ∃ t u, step (timerLoop 0xF315#16) = .next t ∧ stepsWithout writesDt 2 t = some u) ∧
    (fetchInstr (timerLoop 0xF318#16) = .ok (.ldStVx 3) ∧
      ∃ t u, step (timerLoop 0xF318#16) = .next t ∧ stepsWithout writesSt 2 t = some u) :=
  ⟨⟨rfl, _, _, rfl, rfl⟩, rfl, _, _, rfl, rfl⟩

theorem witness_HostReadsFramebufferRowMajor :
    ¬ (64 < 64 ∧ 0 < 32) ∧ ¬ (63 < 64 ∧ 32 < 32) ∧
    ∃ t, exec .cls (State.reset.setFb (lit 63 31)) = .next t ∧
      getPixel t.fb 63 31 ≠ getPixel (State.reset.setFb (lit 63 31)).fb 63 31 :=
  ⟨by decide, by decide, _, rfl, by decide⟩

theorem witness_LoadBuildsTheResetState :
    (List.replicate 3584 0xFF#8).length ≤ 3584 ∧ 3584 < (List.replicate 3585 0xFF#8).length := by
  rw [List.length_replicate, List.length_replicate]; decide

theorem witness_LoadKeepsNothingOfTheOldEngine :
    ∃ t r, hostCall (.load [0x00#8, 0xE0#8]) (start 0x6011#16) = .next (t, r) := ⟨_, _, rfl⟩

end Sys2Proof.Tests
end

section
/-! When an operation that may raise an error completes, and in which state; with these a hypothesis
`exec i s = .next t` gives `t` in every case of the dispatch. -/

namespace Sys2Proof.Machine

@[simp] theorem withRange_eq_next {s t : State} {a n : Nat} {k : Result} :
    withRange s a n k = .next t ↔ (a + n ≤ 4096 ∨ n = 0) ∧ k = .next t := by
  rcases withRange_cases s a n k with ⟨h, he⟩ | ⟨h, he⟩
  · simp [he, h]
  · simp only [he, reduceCtorEq, false_iff]
    omega

@[simp] theorem withKey_eq_next {s t : State} {x : Reg} {k : Fin 16 → Result} :
    withKey s x k = .next t ↔ ∃ h : (s.reg x).toNat < 16, k ⟨(s.reg x).toNat, h⟩ = .next t := by
  rcases withKey_cases s x k with ⟨h, he⟩ | ⟨h, he⟩
  · simp [he, h]
  · simp [he, Nat.not_lt.2 h]

@[simp] theorem pushReturn_eq_next {s t : State} {ret target : Word} :
    pushReturn s ret target = .next t ↔ ∃ h : s.sp.toNat < 16, s.push h ret target = t := by
  rcases pushReturn_cases s ret target with ⟨h, he⟩ | ⟨h, he⟩ | ⟨h, he⟩
  · simp [he, h]
  · simp [he, h]
  · simp [he, Nat.not_lt.2 h.le]

@[simp] theorem popReturn_eq_next {s t : State} :
    popReturn s = .next t ↔ ∃ h : s.sp.toNat - 1 < 16, 0 < s.sp.toNat ∧ s.pop h = t := by
  rcases popReturn_cases s with ⟨h, he⟩ | ⟨h, h', he⟩ | ⟨h, he⟩
  · simp [he, h]
  · simp [he, h, h']
  · simp only [he, reduceCtorEq, false_iff, not_exists]
    omega

/-- LD_VX_K begins the wait, goes on waiting, or takes the resolved key (R234). -/
@[simp] theorem execLdVxK_eq_next {x : Reg} {s t : State} :
    execLdVxK x s = .next t ↔
      s.latch = .idle ∧ s.setLatch .waiting = t ∨ s.latch = .waiting ∧ s = t ∨
      ∃ k, s.latch = .resolved k ∧ ((s.setReg x (zextKey k)).setLatch .idle).advance = t := by
  cases h : s.latch <;> simp [execLdVxK, h]

/-- A step that completes is an instruction that completes after the timer phase (R129). -/
theorem step_eq_next {s t : State} (h : step s = .next t) :
    ∃ i, fetchInstr s = .ok i ∧ exec i s.tick = .next t := by
  rcases step_cases s with ⟨f, -, he⟩ | ⟨i, hi, he⟩
  · rw [he] at h
    cases h
  · exact ⟨i, by simpa using hi, he ▸ h⟩

end Sys2Proof.Machine
end

section
/-! Which registers an instruction writes (spec/10_state.md R22, R23). -/

namespace Sys2Proof.Machine

/-- The registers outside the row of R22 keep their value, one group of cases for each way of writing registers. -/
theorem exec_reg_of_not_writesReg {i : Instr} {s t : State} {r : Reg} (h : exec i s = .next t)
    (hr : ¬ writesReg i s r) : t.reg r = s.reg r := by
  cases i with
  | cls | jp | seImm | sneImm | seReg | sneReg | ldI | jpV0 | ldDtVx | ldStVx | addIVx | ldFVx =>
    cases h
    rfl
  | ret =>
    obtain ⟨_, -, rfl⟩ := popReturn_eq_next.1 h
    rfl
  | call =>
    obtain ⟨_, rfl⟩ := pushReturn_eq_next.1 h
    rfl
  | skp | sknp =>
    obtain ⟨_, ⟨⟩⟩ := withKey_eq_next.1 h
    rfl
  | ldBVx | ldMemVx =>
    obtain ⟨-, ⟨⟩⟩ := withRange_eq_next.1 h
    rfl
  | ldImm x | addImm x | ldReg x | orReg x | andReg x | xorReg x | rnd x | ldVxDt x =>
    cases h
    have hx : r ≠ x := hr
    simp [hx]
  | addReg x | sub x | shr x | subn x | shl x =>
    cases h
    obtain ⟨hx, hf⟩ : r ≠ x ∧ r ≠ 15 := not_or.1 hr
    simp [hx, hf, regVF]
  | drw =>
    obtain ⟨-, ⟨⟩⟩ := withRange_eq_next.1 h
    have hf : r ≠ 15 := hr
    simp [hf, regVF]
  | ldVxK x =>
    rcases execLdVxK_eq_next.1 h with ⟨-, rfl⟩ | ⟨-, rfl⟩ | ⟨k, hk, rfl⟩
    · rfl
    · rfl
    · have hx : r ≠ x := fun hx => hr ⟨⟨k, hk⟩, hx⟩
      simp [hx]
  | ldVxMem x =>
    obtain ⟨-, ⟨⟩⟩ := withRange_eq_next.1 h
    have hx : ¬ r.val < x.val + 1 := fun hlt => hr (Nat.lt_succ_iff.1 hlt)
    simp only [State.advance_eq, State.setPc_reg, State.setRegsFrom0_reg, memLoad_length, if_neg hx]

/-- VF is in the writes column of an instruction only as its flag or as its destination (R23). -/
theorem not_writesReg_VF {i : Instr} {s : State} (hf : ¬ writesFlag i) (hd : ¬ namesVFAsDestination i) :
    ¬ writesReg i s 15 := by
  intro hw
  cases i with
  | ldImm | addImm | ldReg | orReg | andReg | xorReg | rnd | ldVxDt => exact hd hw.symm
  | addReg | sub | shr | subn | shl | drw => exact hf trivial
  | ldVxK => exact hd hw.2.symm
  | ldVxMem x => exact hd (Fin.last_le_iff.1 hw)
  | _ => exact hw

theorem flagByte_zero_or_one (b : Bool) : flagByte b = 0#8 ∨ flagByte b = 1#8 := by
  cases b
  · exact .inl rfl
  · exact .inr rfl

theorem State.setRegFlag_reg_VF (s : State) (x : Reg) (b : Byte) (flag : Bool) :
    (s.setRegFlag x b flag).reg 15 = flagByte flag := by
  simp [regVF]

theorem State.afterDraw_reg_VF (s : State) (d : Drawing) : (s.afterDraw d).reg 15 = flagByte d.2 := by
  simp [regVF]

/-- A flag writer's last write is a flag to VF (R160). -/
theorem exec_flag_of_writesFlag {i : Instr} {s t : State} (h : exec i s = .next t) (hf : writesFlag i) :
    ∃ b, t.reg 15 = flagByte b := by
  cases i with
  | addReg | sub | shr | subn | shl =>
    cases h
    exact ⟨_, State.setRegFlag_reg_VF _ _ _ _⟩
  | drw =>
    obtain ⟨-, ⟨⟩⟩ := withRange_eq_next.1 h
    exact ⟨_, State.afterDraw_reg_VF _ _⟩
  | _ => exact hf.elim

end Sys2Proof.Machine

open Sys2Proof Sys2Proof.Machine

/-- Settles O18, by the cases of the dispatch. -/
theorem registersWrittenOnlyAsListed : Obligations.RegistersWrittenOnlyAsListed :=
  fun _ _ _ _ h hr => exec_reg_of_not_writesReg h hr

/-- Settles O19: VF of a flag writer is a flag byte; of any other instruction it is a register outside its row. -/
theorem flagWrittenZeroOrOne : Obligations.FlagWrittenZeroOrOne := by
  intro i s t h
  refine ⟨fun hf => ?_, fun hf hd => exec_reg_of_not_writesReg h (not_writesReg_VF hf hd)⟩
  obtain ⟨b, hb⟩ := exec_flag_of_writesFlag h hf
  rw [hb]
  exact flagByte_zero_or_one b

end

section
/-! Noninterference: the parts of the state that few instructions touch (the keys, the latch, the sound timer and the
place in the random input), set to anything (spec/10_state.md R20, R30, R33, R34). -/

namespace Sys2Proof.Machine

/-- New values for the parts of the state that few instructions touch; `none` leaves a part as it is. -/
structure Replacement where
  keys : Option (Vector Bool 16) := none
  latch : Option Latch := none
  st : Option Byte := none
  draws : Option Nat := none

/-- The state with the replaced parts. -/
def Replacement.apply (o : Replacement) (s : State) : State :=
  { s with keys := o.keys.getD s.keys, latch := o.latch.getD s.latch, st := o.st.getD s.st
           draws := o.draws.getD s.draws }

/-- The instruction neither reads nor writes a replaced part: only SKP and SKNP read the keys, only LD_VX_K the latch,
only LD_ST_VX writes ST, only RND takes a random byte. -/
structure Replacement.UntouchedBy (o : Replacement) (i : Instr) : Prop where
  keys : o.keys = none ∨ ∀ x, i ≠ .skp x ∧ i ≠ .sknp x
  latch : o.latch = none ∨ ∀ x, i ≠ .ldVxK x
  st : o.st = none ∨ ∀ x, i ≠ .ldStVx x
  draws : o.draws = none ∨ ∀ x kk, i ≠ .rnd x kk

/-- An outcome with its next state, if it has one, changed by `g`. -/
def mapNext (g : State → State) (r : Result) : Result :=
  match r with
  | .next t => .next (g t)
  | .fault f => .fault f
  | .refused e => .refused e

@[simp] theorem mapNext_next (g : State → State) (t : State) : mapNext g (.next t) = .next (g t) := rfl
@[simp] theorem mapNext_fault (g : State → State) (f : Fault) : mapNext g (.fault f) = .fault f := rfl

/-! The shared operations that may raise an error read none of these parts. -/

theorem withRange_apply (o : Replacement) (s : State) (a n : Nat) (k : Result) :
    mapNext o.apply (withRange s a n k) = withRange (o.apply s) a n (mapNext o.apply k) :=
  apply_ite (mapNext o.apply) _ _ _

theorem withKey_apply (o : Replacement) (s : State) (x : Reg) (k : Fin 16 → Result) :
    mapNext o.apply (withKey s x k) = withKey (o.apply s) x fun key => mapNext o.apply (k key) := by
  have hreg : (o.apply s).reg x = s.reg x := rfl
  unfold withKey
  rw [hreg]
  cases keyOfByte (s.reg x) <;> rfl

theorem pushReturn_apply (o : Replacement) (s : State) (ret target : Word) :
    mapNext o.apply (pushReturn s ret target) = pushReturn (o.apply s) ret target := by
  simp only [pushReturn, apply_dite (mapNext o.apply), apply_ite (mapNext o.apply)]
  rfl

theorem popReturn_apply (o : Replacement) (s : State) :
    mapNext o.apply (popReturn s) = popReturn (o.apply s) := by
  simp only [popReturn, apply_dite (mapNext o.apply), apply_ite (mapNext o.apply)]
  rfl

/-- LD_VX_K reads the latch, and no other of these parts. -/
theorem execLdVxK_apply {o : Replacement} (ho : o.latch = none) (x : Reg) (s : State) :
    mapNext o.apply (execLdVxK x s) = execLdVxK x (o.apply s) := by
  have hlatch : (o.apply s).latch = s.latch := by simp [Replacement.apply, ho]
  obtain ⟨ks, l, b, d⟩ := o
  obtain rfl : l = none := ho
  unfold execLdVxK
  rw [hlatch]
  cases s.latch <;> rfl

/-- An instruction does the same whatever stands in the parts it does not touch, and leaves them as they are. -/
theorem exec_apply {o : Replacement} {i : Instr} (ho : o.UntouchedBy i) (s : State) :
    exec i (o.apply s) = mapNext o.apply (exec i s) := by
  obtain ⟨ks, l, b, d⟩ := o
  cases i with
  | ret => exact (popReturn_apply _ s).symm
  | call => exact (pushReturn_apply _ s _ _).symm
  | drw | ldBVx | ldMemVx | ldVxMem =>
    symm
    exact withRange_apply _ s _ _ _
  | skp x =>
    obtain rfl : ks = none := ho.keys.resolve_right fun h => (h x).1 rfl
    symm
    exact withKey_apply _ s x _
  | sknp x =>
    obtain rfl : ks = none := ho.keys.resolve_right fun h => (h x).2 rfl
    symm
    exact withKey_apply _ s x _
  | ldVxK x =>
    exact (execLdVxK_apply (ho.latch.resolve_right fun h => h x rfl) x s).symm
  | ldStVx x =>
    obtain rfl : b = none := ho.st.resolve_right fun h => h x rfl
    rfl
  | rnd x kk =>
    obtain rfl : d = none := ho.draws.resolve_right fun h => h x kk rfl
    rfl
  | _ => rfl

/-- An instruction that completes does so with the parts replaced too, in the same state but for them. -/
theorem exec_apply_next {o : Replacement} {i : Instr} {s t : State} (ho : o.UntouchedBy i)
    (h : exec i s = .next t) : exec i (o.apply s) = .next (o.apply t) := by
  rw [exec_apply ho, h, mapNext_next]

/-- With another latch, an instruction but LD_VX_K gives the same state with that latch (R34). -/
theorem exec_with_latch {i : Instr} {s t : State} (l : Latch) (hi : ∀ x, i ≠ .ldVxK x) (h : exec i s = .next t) :
    exec i { s with latch := l } = .next { t with latch := l } :=
  exec_apply_next (o := { latch := some l }) ⟨.inl rfl, .inr hi, .inl rfl, .inl rfl⟩ h

/-- Only LD_VX_K changes the latch (R34, R235): any other instruction carries over whatever latch it is given. -/
theorem exec_latch {i : Instr} {s t : State} (hi : ∀ x, i ≠ .ldVxK x) (h : exec i s = .next t) :
    t.latch = s.latch :=
  congrArg (·.latch) (Host.Outcome.next.inj (h.symm.trans (exec_with_latch s.latch hi h)))

theorem Replacement.untouchedBy_of_ne_rnd {i : Instr} (hi : ∀ x kk, i ≠ .rnd x kk) (d : Nat) :
    Replacement.UntouchedBy { draws := some d } i := ⟨.inl rfl, .inl rfl, .inl rfl, .inr hi⟩

/-- At another place in the random input, an instruction but RND gives the same state with that place (R38). -/
theorem exec_with_draws {i : Instr} {s t : State} (d : Nat) (hi : ∀ x kk, i ≠ .rnd x kk) (h : exec i s = .next t) :
    exec i { s with draws := d } = .next { t with draws := d } :=
  exec_apply_next (Replacement.untouchedBy_of_ne_rnd hi d) h

/-- Only RND draws a random byte (R38): any other instruction carries over whatever place it is given. -/
theorem exec_draws {i : Instr} {s t : State} (hi : ∀ x kk, i ≠ .rnd x kk) (h : exec i s = .next t) :
    t.draws = s.draws :=
  congrArg (·.draws) (Host.Outcome.next.inj (h.symm.trans (exec_with_draws s.draws hi h)))

/-- An error of an instruction does not depend on the place in the random input; RND raises none. -/
theorem exec_fault_draws {i : Instr} {s : State} {f : Fault} (d : Nat) (h : exec i s = .fault f) :
    exec i { s with draws := d } = .fault f := by
  by_cases hi : ∀ x kk, i ≠ .rnd x kk
  · have hexec := exec_apply (Replacement.untouchedBy_of_ne_rnd hi d) s
    rwa [h, mapNext_fault] at hexec
  · push Not at hi
    obtain ⟨x, kk, rfl⟩ := hi
    cases h

/-- Nor does an error of a step: the fetch reads `pc` and memory only. -/
theorem step_fault_draws {s : State} {f : Fault} (d : Nat) (h : step s = .fault f) :
    step { s with draws := d } = .fault f := by
  have hfetch : fetchInstr (State.tick { s with draws := d }) = fetchInstr s.tick := rfl
  unfold step at h ⊢
  rw [hfetch]
  cases hs : fetchInstr s.tick with
  | error e => simpa only [hs] using h
  | ok i =>
    simp only [hs] at h
    exact exec_fault_draws d h

/-! The step on the tuple of R20 (R129). -/

/-- The byte drawn is an input of RND only (R172). -/
theorem coreExec_of_ne_rnd {i : Instr} (hi : ∀ x kk, i ≠ .rnd x kk) (r : Byte) (c : CoreState) :
    coreExec r i c = onTuple (exec i c.toState) := by
  cases i with
  | rnd x kk => exact absurd rfl (hi x kk)
  | _ => rfl

theorem onTuple_mapNext {g : State → State} (hg : ∀ t, (g t).toCoreState = t.toCoreState) (r : Result) :
    onTuple (mapNext g r) = onTuple r := by
  cases r with
  | next t => simp [hg]
  | fault | refused => rfl

/-- On the tuple, `exec` is `coreExec` fed the next byte of the random input: what else it is given, the place in that
input, matters to RND only. -/
theorem onTuple_exec (i : Instr) (s : State) :
    onTuple (exec i s) = coreExec (Config.randByte s.draws) i s.toCoreState := by
  by_cases hi : ∀ x kk, i ≠ .rnd x kk
  · have htuple : ∀ t, (Replacement.apply { draws := some 0 } t).toCoreState = t.toCoreState := fun _ => rfl
    calc onTuple (exec i s)
        = onTuple (exec i (Replacement.apply { draws := some 0 } s)) := by
          rw [exec_apply (Replacement.untouchedBy_of_ne_rnd hi 0), onTuple_mapNext htuple]
      _ = coreExec (Config.randByte s.draws) i s.toCoreState := (coreExec_of_ne_rnd hi _ _).symm
  · push Not at hi
    obtain ⟨x, kk, rfl⟩ := hi
    rfl

theorem onTuple_step (s : State) : onTuple (step s) = coreStep (Config.randByte s.draws) s.toCoreState := by
  have hfetch : fetchInstr s.toCoreState.tick.toState = fetchInstr s.tick := rfl
  unfold step coreStep
  rw [hfetch]
  cases fetchInstr s.tick with
  | error f => rfl
  | ok i => exact onTuple_exec i s.tick

end Sys2Proof.Machine

open Sys2Proof Sys2Proof.Machine

/-- Settles O23: each clause replaces one part the instruction does not touch. -/
theorem keypadAndSoundTimerAreUnread : Obligations.KeypadAndSoundTimerAreUnread :=
  ⟨fun _ _ _ ks hi h =>
      exec_apply_next (o := { keys := some ks }) ⟨.inr hi, .inl rfl, .inl rfl, .inl rfl⟩ h,
    fun _ _ _ l hi h => exec_with_latch l hi h,
    fun _ _ _ b hi h =>
      exec_apply_next (o := { st := some b }) ⟨.inl rfl, .inl rfl, .inr hi, .inl rfl⟩ h⟩

/-- Settles O58: the place in the random input is a part that only RND touches. -/
theorem nothingButTheTupleIsState : Obligations.NothingButTheTupleIsState := by
  refine ⟨fun _ _ _ d hi h => ⟨exec_draws hi h, exec_with_draws d hi h⟩, fun x kk s t d h hd => ?_,
    fun _ _ d _ h => exec_fault_draws d h, fun _ d _ h => step_fault_draws d h⟩
  cases h
  refine ⟨_, rfl, ?_⟩
  simp only [hd]
  rfl

/-- Settles O59: the tuple's state and the state differ in the place in the random input only. -/
theorem stepIsTheTuplesStepOnTheNextByte : Obligations.StepIsTheTuplesStepOnTheNextByte :=
  ⟨onTuple_step, onTuple_exec, fun r r' _ c hi =>
    (coreExec_of_ne_rnd hi r c).trans (coreExec_of_ne_rnd hi r' c).symm⟩

end

section
/-! The state after reset and the stops above the last stack slot (spec/10_state.md R28, R39). -/

namespace Sys2Proof.Machine

@[simp] theorem State.reset_reg (r : Reg) : State.reset.reg r = 0#8 := by
  simp [State.reg, State.reset]

@[simp] theorem State.reset_slot (j : Nat) : State.reset.slot j = 0#16 := by
  by_cases hj : j < 16 <;> simp [State.slot, State.reset, hj]

@[simp] theorem State.reset_key (k : Fin 16) : State.reset.key k = false := by
  simp [State.key, State.reset]

/-- Memory at reset: the font below 0x050, 0x00 from there up. -/
@[simp] theorem State.reset_byte (a : Nat) : State.reset.byte a = if a < 80 then Config.font a else 0#8 := rfl

/-- A ROM of at most 3584 bytes is loaded into the reset state (R300); a longer one is refused (R277). -/
theorem load_cases (draws : Nat) (rom : List Byte) :
    rom.length ≤ 3584 ∧
      load draws rom = .next { State.reset with mem := memStore [] 0x200 rom, draws := draws } ∨
    3584 < rom.length ∧ load draws rom = .fault (.loadError rom.length) := by
  have hmax : Config.romMax = 3584 := rfl
  unfold load
  split
  · exact .inr ⟨by omega, rfl⟩
  · exact .inl ⟨by omega, rfl⟩

end Sys2Proof.Machine

open Sys2Proof Sys2Proof.Machine

/-- Settles O56, field by field. -/
theorem resetIsAnEmptyLoad : Obligations.ResetIsAnEmptyLoad := by
  refine ⟨rfl, fun a ha => ?_, fun a ha => ?_, State.reset_reg, rfl, rfl, rfl, State.reset_slot, rfl, rfl,
    getPixel_clear, State.reset_key, rfl⟩
  · rw [State.reset_byte, if_pos ha]
  · rw [State.reset_byte, if_neg (Nat.not_lt.2 ha)]

/-- Settles O28: of the cases of a push and of a pop only the model's own stop is left. -/
theorem stackPointerAboveSixteenStops : Obligations.StackPointerAboveSixteenStops := by
  intro nnn s hsp
  constructor
  · rcases pushReturn_cases s (s.pc + 2#16) (zextAddr nnn) with ⟨h, -⟩ | ⟨h, -⟩ | ⟨-, h⟩
    · omega
    · omega
    · exact h
  · rcases popReturn_cases s with ⟨h, -⟩ | ⟨h, -⟩ | ⟨-, h⟩
    · omega
    · omega
    · exact h

/-- Settles O16, field by field. -/
theorem resetMeetsInvariant : Obligations.ResetMeetsInvariant where
  memory_canonical := rfl
  sp_bound := by decide
  pc_bound := by decide
  slot_bound j := by simp
  wait_at_pc h := absurd rfl h

end

section
/-! The invariant of every reachable engine (spec/10_state.md R25, R28, R35): each instruction keeps it, so each step
and each host operation does. -/

namespace Sys2Proof.Machine

/-! ### The program counter (R25, R124) -/

theorem advance_bound {pc : Word} (h : pc.toNat < 4095) : (pc + 2#16).toNat ≤ 0x1000 := by
  rw [BitVec.toNat_add]
  simp only [BitVec.toNat_ofNat]
  omega

theorem skip_bound {pc : Word} (c : Bool) (h : pc.toNat < 4095) :
    (if c then pc + 4#16 else pc + 2#16).toNat ≤ 0x10FE := by
  have hnext := advance_bound h
  split
  · rw [BitVec.toNat_add]
    simp only [BitVec.toNat_ofNat]
    omega
  · omega

theorem zextAddr_toNat (nnn : BitVec 12) : (zextAddr nnn).toNat = nnn.toNat := by
  rw [zextAddr, BitVec.toNat_setWidth]
  omega

/-- JP_V0 reaches at most 0xFFF + 0xFF (R144). -/
theorem jumpV0Target_bound (nnn : BitVec 12) (v0 : Byte) : (jumpV0Target nnn v0).toNat ≤ 0x10FE := by
  rw [jumpV0Target, trunc16_toNat]
  omega

/-! ### Instructions -/

/-- The invariant goes over to a state with the same memory and stack, if its own `pc` and wait meet it. -/
theorem Inv.of_frame {s t : State} (hs : Inv s) (hmem : t.mem = s.mem) (hsp : t.sp = s.sp) (hstack : t.stack = s.stack)
    (hpc : t.pc.toNat ≤ 0x10FE) (hwait : t.latch ≠ .idle → ∃ x : Reg, fetchInstr t = .ok (.ldVxK x)) :
    Inv t where
  memory_canonical := hmem ▸ hs.memory_canonical
  sp_bound := hsp ▸ hs.sp_bound
  pc_bound := hpc
  slot_bound j := by
    have hj := hs.slot_bound j
    rwa [State.slot, ← hstack] at hj
  wait_at_pc := hwait

theorem Inv.tick {s : State} (hs : Inv s) : Inv s.tick :=
  hs.of_frame rfl rfl rfl hs.pc_bound (by simpa using hs.wait_at_pc)

/-- A store that lies in memory keeps the invariant, but for the wait. -/
theorem Inv.store {s : State} (hs : Inv s) {a : Nat} {bs : List Byte} (hr : a + bs.length ≤ 4096)
    (hpc : s.pc.toNat < 4095)
    (hwait : s.latch ≠ .idle → ∃ x, fetchInstr (s.setMem (memStore s.mem a bs)).advance = .ok (.ldVxK x)) :
    Inv (s.setMem (memStore s.mem a bs)).advance where
  memory_canonical := memoryWf_memStore bs hs.memory_canonical hr
  sp_bound := hs.sp_bound
  pc_bound := (advance_bound hpc).trans (by decide)
  slot_bound := hs.slot_bound
  wait_at_pc := hwait

/-- While a wait goes on the word at `pc` is an Fx0A (R35): only LD_VX_K begins one, it leaves `pc` and memory as they
are until the wait ends, and no other instruction runs meanwhile. -/
theorem Inv.exec_wait {s t : State} (hs : Inv s) {i : Instr} (hi : fetchInstr s = .ok i) (h : exec i s = .next t)
    (ht : t.latch ≠ .idle) : ∃ x : Reg, fetchInstr t = .ok (.ldVxK x) := by
  by_cases hk : ∀ x, i ≠ .ldVxK x
  · rw [exec_latch hk h] at ht
    obtain ⟨x, hx⟩ := hs.wait_at_pc ht
    exact absurd (Except.ok.inj (hi.symm.trans hx)) (hk x)
  · push Not at hk
    obtain ⟨x, rfl⟩ := hk
    rcases execLdVxK_eq_next.1 h with ⟨-, rfl⟩ | ⟨-, rfl⟩ | ⟨k, -, rfl⟩
    · exact ⟨x, (fetchInstr_congr rfl fun _ => rfl).trans hi⟩
    · exact ⟨x, hi⟩
    · exact absurd rfl ht

/-- An instruction, executed where it was fetched, keeps the invariant: most only advance or set `pc`; the stores, CALL
and RET change memory or the stack within their bounds. -/
theorem Inv.of_exec {s t : State} (hs : Inv s) {i : Instr} (hi : fetchInstr s = .ok i) (h : exec i s = .next t) :
    Inv t := by
  have hpc := fetchInstr_pc hi
  have hnext := advance_bound hpc
  have hadv : (s.pc + 2#16).toNat ≤ 0x10FE := hnext.trans (by decide)
  have hwait := hs.exec_wait hi h
  cases i with
  | cls | ldImm | addImm | ldReg | orReg | andReg | xorReg | addReg | sub | shr | subn | shl | ldI | rnd | ldVxDt
  | ldDtVx | ldStVx | addIVx | ldFVx =>
    cases h
    exact hs.of_frame rfl rfl rfl hadv hwait
  | seImm | sneImm | seReg | sneReg =>
    cases h
    exact hs.of_frame rfl rfl rfl (skip_bound _ hpc) hwait
  | skp | sknp =>
    obtain ⟨_, ⟨⟩⟩ := withKey_eq_next.1 h
    exact hs.of_frame rfl rfl rfl (skip_bound _ hpc) hwait
  | drw | ldVxMem =>
    obtain ⟨-, ⟨⟩⟩ := withRange_eq_next.1 h
    exact hs.of_frame rfl rfl rfl hadv hwait
  | jp nnn =>
    cases h
    refine hs.of_frame rfl rfl rfl ?_ hwait
    rw [State.setPc_pc, zextAddr_toNat]
    omega
  | jpV0 nnn =>
    cases h
    exact hs.of_frame rfl rfl rfl (jumpV0Target_bound _ _) hwait
  | ldVxK =>
    rcases execLdVxK_eq_next.1 h with ⟨-, rfl⟩ | ⟨-, rfl⟩ | ⟨k, -, rfl⟩
    · exact hs.of_frame rfl rfl rfl hs.pc_bound hwait
    · exact hs
    · exact hs.of_frame rfl rfl rfl hadv hwait
  | ldBVx x =>
    obtain ⟨hr, ⟨⟩⟩ := withRange_eq_next.1 h
    exact hs.store (by simpa using hr) hpc hwait
  | ldMemVx x =>
    obtain ⟨hr, ⟨⟩⟩ := withRange_eq_next.1 h
    exact hs.store (by simpa using hr) hpc hwait
  | call nnn =>
    obtain ⟨hsp, rfl⟩ := pushReturn_eq_next.1 h
    refine ⟨hs.memory_canonical, ?_, ?_, fun j => ?_, hwait⟩
    · rw [State.push_sp, BitVec.toNat_add]
      simp only [BitVec.toNat_ofNat]
      omega
    · rw [State.push_pc, zextAddr_toNat]
      omega
    · rw [State.push_slot]
      split
      · exact hnext
      · exact hs.slot_bound j
  | ret =>
    obtain ⟨hsp, hpos, rfl⟩ := popReturn_eq_next.1 h
    refine ⟨hs.memory_canonical, ?_, ?_, hs.slot_bound, hwait⟩
    · rw [State.pop_sp, BitVec.toNat_sub]
      simp only [BitVec.toNat_ofNat]
      omega
    · have hslot := hs.slot_bound (s.sp.toNat - 1)
      rw [State.slot_of_lt s _ hsp] at hslot
      rw [State.pop_pc]
      omega

theorem Inv.of_step {s t : State} (hs : Inv s) (h : step s = .next t) : Inv t := by
  obtain ⟨i, hi, hexec⟩ := step_eq_next h
  exact hs.tick.of_exec (by simpa using hi) hexec

/-! ### Host operations -/

theorem Inv.of_load {t : State} {draws : Nat} {rom : List Byte} (h : load draws rom = .next t) : Inv t := by
  rcases load_cases draws rom with ⟨hlen, he⟩ | ⟨-, he⟩
  · rw [he] at h
    cases h
    exact ⟨memoryWf_memStore rom rfl (by simp only [Config.memSize]; omega), resetMeetsInvariant.sp_bound,
      resetMeetsInvariant.pc_bound, resetMeetsInvariant.slot_bound, fun h => absurd rfl h⟩
  · rw [he] at h
    cases h

theorem Inv.pressKey {s : State} (hs : Inv s) (k : Fin 16) : Inv (s.pressKey k) :=
  hs.of_frame rfl rfl rfl hs.pc_bound hs.wait_at_pc

/-- A release resolves a wait in progress and begins none (R231). -/
theorem Inv.releaseKey {s : State} (hs : Inv s) (k : Fin 16) : Inv (s.releaseKey k) := by
  refine hs.of_frame rfl rfl rfl hs.pc_bound fun ht => hs.wait_at_pc fun hidle => ht ?_
  simp [hidle, Latch.onRelease]

theorem replyOk_eq_next {q : Result} {t : State} {r : HostReply} (h : replyOk q = .next (t, r)) : q = .next t := by
  cases q with
  | next u => cases h; rfl
  | fault | refused => cases h

/-- What an answered host operation does to the engine (R285): a load, a step, a key event; or nothing, for a read and
for a step that raises an error. -/
theorem hostCall_cases {op : HostOp} {s t : State} {r : HostReply} (h : hostCall op s = .next (t, r)) :
    (∃ rom, op = .load rom ∧ load s.draws rom = .next t) ∨ (op = .step ∧ step s = .next t) ∨
    (∃ k : Fin 16, op = .keyPressed k ∧ t = s.pressKey k) ∨
    (∃ k : Fin 16, op = .keyReleased k ∧ t = s.releaseKey k) ∨ t = s := by
  cases op with
  | load rom => exact .inl ⟨rom, rfl, replyOk_eq_next h⟩
  | step =>
    simp only [hostCall] at h
    split at h <;> cases h
    · exact .inr (.inl ⟨rfl, by assumption⟩)
    · exact .inr (.inr (.inr (.inr rfl)))
  | keyPressed k =>
    have h := replyOk_eq_next h
    unfold keyPressed at h
    split at h <;> cases h
    exact .inr (.inr (.inl ⟨⟨k, by assumption⟩, rfl, rfl⟩))
  | keyReleased k =>
    have h := replyOk_eq_next h
    unfold keyReleased at h
    split at h <;> cases h
    exact .inr (.inr (.inr (.inl ⟨⟨k, by assumption⟩, rfl, rfl⟩)))
  | display | soundActive =>
    cases h
    exact .inr (.inr (.inr (.inr rfl)))
  | pixel x y =>
    simp only [hostCall] at h
    split at h <;> cases h
    exact .inr (.inr (.inr (.inr rfl)))

theorem Inv.of_hostCall {op : HostOp} {s t : State} {r : HostReply} (hs : Inv s) (h : hostCall op s = .next (t, r)) :
    Inv t := by
  rcases hostCall_cases h with ⟨rom, -, h⟩ | ⟨-, h⟩ | ⟨k, -, rfl⟩ | ⟨k, -, rfl⟩ | rfl
  · exact Inv.of_load h
  · exact hs.of_step h
  · exact hs.pressKey k
  · exact hs.releaseKey k
  · exact hs

end Sys2Proof.Machine

open Sys2Proof Sys2Proof.Machine

/-- Settles O15: the timer phase keeps the invariant, and so does the instruction fetched. -/
theorem stepKeepsInvariant : Obligations.StepKeepsInvariant :=
  fun _ _ hs h => hs.of_step h

/-- Settles O17, by induction on how the engine came about: a load gives the invariant, and each operation
keeps it. -/
theorem reachableEnginesMeetInvariant : Obligations.ReachableEnginesMeetInvariant := by
  intro s hs
  induction hs with
  | loaded _ _ _ h => exact Inv.of_load h
  | called _ _ _ _ _ h ih => exact ih.of_hostCall h

end

section
/-! Memory and the fetch (spec/20_memory.md): the two bytes of a word, which instructions write memory, and what a byte
is after LD_MEM_VX stored the registers. -/

namespace Sys2Proof

theorem highByte_wordOfBytes (hi lo : Byte) : highByte (wordOfBytes hi lo) = hi :=
  BitVec.eq_of_toNat_eq (by rw [highByte_toNat, wordOfBytes_toNat]; omega)

theorem lowByte_wordOfBytes (hi lo : Byte) : lowByte (wordOfBytes hi lo) = lo :=
  BitVec.eq_of_toNat_eq (by rw [lowByte_toNat, wordOfBytes_toNat]; omega)

end Sys2Proof

namespace Sys2Proof.Machine

/-- Only LD_B_VX and LD_MEM_VX write memory (R72). -/
theorem exec_mem_eq_or_store {i : Instr} {s t : State} (h : exec i s = .next t) :
    t.mem = s.mem ∨ ∃ x, i = .ldBVx x ∨ i = .ldMemVx x := by
  cases i with
  | ldBVx x => exact .inr ⟨x, .inl rfl⟩
  | ldMemVx x => exact .inr ⟨x, .inr rfl⟩
  | ret =>
    obtain ⟨_, -, rfl⟩ := popReturn_eq_next.1 h
    exact .inl rfl
  | call =>
    obtain ⟨_, rfl⟩ := pushReturn_eq_next.1 h
    exact .inl rfl
  | skp | sknp =>
    obtain ⟨_, ⟨⟩⟩ := withKey_eq_next.1 h
    exact .inl rfl
  | drw | ldVxMem =>
    obtain ⟨-, ⟨⟩⟩ := withRange_eq_next.1 h
    exact .inl rfl
  | ldVxK =>
    rcases execLdVxK_eq_next.1 h with ⟨-, rfl⟩ | ⟨-, rfl⟩ | ⟨_, -, rfl⟩
    all_goals exact .inl rfl
  | _ =>
    cases h
    exact .inl rfl

/-- A step leaves memory as it was unless it fetched a store (R72); the timer phase writes none (R121). -/
theorem step_mem_eq_or_store {s t : State} (h : step s = .next t) :
    t.mem = s.mem ∨ ∃ x, fetchInstr s.tick = .ok (.ldBVx x) ∨ fetchInstr s.tick = .ok (.ldMemVx x) := by
  obtain ⟨i, hi, hexec⟩ := step_eq_next h
  rw [fetchInstr_tick]
  rcases exec_mem_eq_or_store hexec with hmem | ⟨x, rfl | rfl⟩
  · exact .inl hmem
  · exact .inr ⟨x, .inl hi⟩
  · exact .inr ⟨x, .inr hi⟩

/-- LD_MEM_VX completes when its bytes lie in memory (R194). -/
theorem exec_ldMemVx_pass {x : Reg} {s : State} (h : s.addrI + x.val < 4096) :
    exec (.ldMemVx x) s = .next (s.setMem (memStore s.mem s.addrI (s.regsUpTo x))).advance :=
  withRange_pass _ (.inl h)

/-- Register `r` of V0 to Vx is stored at `I + r` (R194). -/
theorem memGet_memStore_regsUpTo {x r : Reg} {s : State} (hwf : memoryWf s.mem = true)
    (hrange : s.addrI + x.val < 4096) (hr : r ≤ x) :
    memGet (memStore s.mem s.addrI (s.regsUpTo x)) (s.addrI + r.val) = s.reg r := by
  have hlen : s.addrI + (s.regsUpTo x).length ≤ Config.memSize := by
    rw [State.regsUpTo_length]
    exact hrange
  have hle : r.val ≤ x.val := hr
  have hin : s.addrI ≤ s.addrI + r.val ∧ s.addrI + r.val < s.addrI + (s.regsUpTo x).length := by
    rw [State.regsUpTo_length]
    omega
  rw [memGet_memStore _ _ hwf hlen, if_pos hin, Nat.add_sub_cancel_left, State.regsUpTo_getD s x r r.isLt, if_pos hle]

end Sys2Proof.Machine

open Sys2Proof Sys2Proof.Machine

/-- Settles O7, by the three ranges of `pc` in what the fetch answers. -/
theorem fetchReadsTwoBytesBigEndian : Obligations.FetchReadsTwoBytesBigEndian := by
  intro s
  rw [fetch_eq]
  refine ⟨fun hpc => ?_, fun hpc => ?_, fun hpc => ?_⟩
  · rw [if_pos (by omega)]
    exact ⟨_, rfl, highByte_wordOfBytes _ _, lowByte_wordOfBytes _ _⟩
  · rw [if_neg (by omega), if_pos hpc]
  · rw [if_neg (by omega), if_neg (by omega)]

/-- Settles O21: of what a host operation but load can do to the engine, only a step's store writes memory. -/
theorem memoryWrittenOnlyByStores : Obligations.MemoryWrittenOnlyByStores := by
  intro op s t r a h hload hbyte
  rcases hostCall_cases h with ⟨rom, hop, -⟩ | ⟨hop, hstep⟩ | ⟨k, -, rfl⟩ | ⟨k, -, rfl⟩ | rfl
  · exact absurd hop (hload rom)
  · refine ⟨hop, (step_mem_eq_or_store hstep).resolve_left fun hmem => hbyte ?_⟩
    rw [State.byte, hmem, State.byte]
  all_goals exact absurd rfl hbyte

/-- Settles O42: after the store `pc` is the old I, so the fetch reads the bytes where V0 and V1 were stored. -/
theorem storeIsSeenByTheNextFetch : Obligations.StoreIsSeenByTheNextFetch := by
  intro x s hwf hx hi hrange
  refine ⟨_, exec_ldMemVx_pass hrange, ?_⟩
  have hpc : (s.pc + 2#16).toNat = s.addrI := by rw [State.addrI, hi]
  have h0 := memGet_memStore_regsUpTo hwf hrange (Fin.zero_le x)
  have h1 := memGet_memStore_regsUpTo (r := 1) hwf hrange hx
  rw [fetch_eq, State.advance_eq, State.setPc_pc, State.setMem_pc, hpc, if_pos (by omega)]
  exact congrArg Except.ok (congrArg₂ wordOfBytes h0 h1)

end

section
/-! The decoder and the encoder (spec/30_encoding.md R91 to R97): `decode` family by family and row by row, and `encode`
its inverse. -/

namespace Sys2Proof

/-! ### The decoder by opcode family (R94) -/

section
variable {w : Word}

theorem decode_family0 (h : fieldOp w = 0x0#4) : decode w = decodeFamily0 w := by simp [decode, h]
theorem decode_family1 (h : fieldOp w = 0x1#4) : decode w = .ok (.jp (fieldNnn w)) := by simp [decode, h]
theorem decode_family2 (h : fieldOp w = 0x2#4) : decode w = .ok (.call (fieldNnn w)) := by simp [decode, h]
theorem decode_family3 (h : fieldOp w = 0x3#4) : decode w = .ok (.seImm (fieldX w) (fieldKk w)) := by
  simp [decode, h]
theorem decode_family4 (h : fieldOp w = 0x4#4) : decode w = .ok (.sneImm (fieldX w) (fieldKk w)) := by
  simp [decode, h]
theorem decode_family5 (h : fieldOp w = 0x5#4) :
    decode w = if fieldN w = 0x0#4 then .ok (.seReg (fieldX w) (fieldY w)) else .error (.illegalWord w) := by
  simp [decode, h]
theorem decode_family6 (h : fieldOp w = 0x6#4) : decode w = .ok (.ldImm (fieldX w) (fieldKk w)) := by
  simp [decode, h]
theorem decode_family7 (h : fieldOp w = 0x7#4) : decode w = .ok (.addImm (fieldX w) (fieldKk w)) := by
  simp [decode, h]
theorem decode_family8 (h : fieldOp w = 0x8#4) : decode w = decodeFamily8 w := by simp [decode, h]
theorem decode_family9 (h : fieldOp w = 0x9#4) :
    decode w = if fieldN w = 0x0#4 then .ok (.sneReg (fieldX w) (fieldY w)) else .error (.illegalWord w) := by
  simp [decode, h]
theorem decode_familyA (h : fieldOp w = 0xA#4) : decode w = .ok (.ldI (fieldNnn w)) := by simp [decode, h]
theorem decode_familyB (h : fieldOp w = 0xB#4) : decode w = .ok (.jpV0 (fieldNnn w)) := by simp [decode, h]
theorem decode_familyC (h : fieldOp w = 0xC#4) : decode w = .ok (.rnd (fieldX w) (fieldKk w)) := by
  simp [decode, h]
theorem decode_familyD (h : fieldOp w = 0xD#4) :
    decode w = .ok (.drw (fieldX w) (fieldY w) (fieldN w).toNat) := by simp [decode, h]
theorem decode_familyE (h : fieldOp w = 0xE#4) : decode w = decodeFamilyE w := by simp [decode, h]
theorem decode_familyF (h : fieldOp w = 0xF#4) : decode w = decodeFamilyF w := by simp [decode, h]

end

/-! ### Decoding of an encoding -/

/-- Every well-formed instruction is decoded from its word, one group of cases for each way the decoder finds it. -/
theorem decode_encode {i : Instr} (hi : i.wellFormed = true) : decode (encode i) = .ok i := by
  cases i with
  | cls | ret => rfl
  | jp | call | seImm | sneImm | seReg | ldImm | addImm | sneReg | ldI | jpV0 | rnd => simp [encode, decode]
  | ldReg | orReg | andReg | xorReg | addReg | sub | shr | subn | shl => simp [encode, decode_family8, decodeFamily8]
  | drw x y n =>
    have hn : n < 16 := of_decide_eq_true hi
    simp [encode, decode_familyD, Nat.mod_eq_of_lt hn]
  | skp | sknp => simp [encode, decode_familyE, decodeFamilyE]
  | ldVxDt | ldVxK | ldDtVx | ldStVx | addIVx | ldFVx | ldBVx | ldMemVx | ldVxMem =>
    simp [encode, decode_familyF, decodeFamilyF]

/-! ### Encoding of a decoding (R97) -/

theorem decodeFamily0_ok {w : Word} {i : Instr} (h : decodeFamily0 w = .ok i) :
    i.wellFormed = true ∧ encode i = w := by
  unfold decodeFamily0 at h
  repeat' split at h
  all_goals cases h
  all_goals exact ⟨rfl, by simp [encode, *]⟩

theorem decodeFamily8_ok {w : Word} {i : Instr} (h : decodeFamily8 w = .ok i) :
    i.wellFormed = true ∧ encode i = formatXYN 0x8#4 (fieldX w) (fieldY w) (fieldN w) := by
  unfold decodeFamily8 at h
  dsimp only at h
  repeat' split at h
  all_goals cases h
  all_goals exact ⟨rfl, by simp [encode, *]⟩

theorem decodeFamilyE_ok {w : Word} {i : Instr} (h : decodeFamilyE w = .ok i) :
    i.wellFormed = true ∧ encode i = formatXS 0xE#4 (fieldX w) (fieldKk w) := by
  unfold decodeFamilyE at h
  dsimp only at h
  repeat' split at h
  all_goals cases h
  all_goals exact ⟨rfl, by simp [encode, *]⟩

theorem decodeFamilyF_ok {w : Word} {i : Instr} (h : decodeFamilyF w = .ok i) :
    i.wellFormed = true ∧ encode i = formatXS 0xF#4 (fieldX w) (fieldKk w) := by
  unfold decodeFamilyF at h
  dsimp only at h
  repeat' split at h
  all_goals cases h
  all_goals exact ⟨rfl, by simp [encode, *]⟩

section
variable {w : Word} {op : BitVec 4}

theorem formatA_of_fieldOp (ho : fieldOp w = op) : formatA op (fieldNnn w) = w := ho ▸ formatA_fields w
theorem formatXK_of_fieldOp (ho : fieldOp w = op) : formatXK op (fieldX w) (fieldKk w) = w := ho ▸ formatXK_fields w
theorem formatXYN_of_fields {n : BitVec 4} (ho : fieldOp w = op) (hn : fieldN w = n) :
    formatXYN op (fieldX w) (fieldY w) n = w := ho ▸ hn ▸ formatXYN_fields w

end

/-- A legal word is the word of the well-formed instruction it decodes to, family by family. -/
theorem encode_of_decode {w : Word} {i : Instr} (h : decode w = .ok i) : i.wellFormed = true ∧ encode i = w := by
  rcases nibble_cases (fieldOp w) with
    ho | ho | ho | ho | ho | ho | ho | ho | ho | ho | ho | ho | ho | ho | ho | ho
  · exact decodeFamily0_ok (decode_family0 ho ▸ h)
  · cases (decode_family1 ho).symm.trans h
    exact ⟨rfl, formatA_of_fieldOp ho⟩
  · cases (decode_family2 ho).symm.trans h
    exact ⟨rfl, formatA_of_fieldOp ho⟩
  · cases (decode_family3 ho).symm.trans h
    exact ⟨rfl, formatXK_of_fieldOp ho⟩
  · cases (decode_family4 ho).symm.trans h
    exact ⟨rfl, formatXK_of_fieldOp ho⟩
  · rw [decode_family5 ho] at h
    split at h <;> cases h
    exact ⟨rfl, formatXYN_of_fields ho ‹_›⟩
  · cases (decode_family6 ho).symm.trans h
    exact ⟨rfl, formatXK_of_fieldOp ho⟩
  · cases (decode_family7 ho).symm.trans h
    exact ⟨rfl, formatXK_of_fieldOp ho⟩
  · have h8 := decodeFamily8_ok (decode_family8 ho ▸ h)
    rwa [formatXYN_of_fields ho rfl] at h8
  · rw [decode_family9 ho] at h
    split at h <;> cases h
    exact ⟨rfl, formatXYN_of_fields ho ‹_›⟩
  · cases (decode_familyA ho).symm.trans h
    exact ⟨rfl, formatA_of_fieldOp ho⟩
  · cases (decode_familyB ho).symm.trans h
    exact ⟨rfl, formatA_of_fieldOp ho⟩
  · cases (decode_familyC ho).symm.trans h
    exact ⟨rfl, formatXK_of_fieldOp ho⟩
  · cases (decode_familyD ho).symm.trans h
    refine ⟨decide_eq_true (fieldN w).isLt, ?_⟩
    rw [encode, BitVec.ofNat_toNat, BitVec.setWidth_eq, formatXYN_of_fields ho rfl]
  · have hE := decodeFamilyE_ok (decode_familyE ho ▸ h)
    rwa [formatXS, ← formatXK, formatXK_of_fieldOp ho] at hE
  · have hF := decodeFamilyF_ok (decode_familyF ho ▸ h)
    rwa [formatXS, ← formatXK, formatXK_of_fieldOp ho] at hF

/-! ### The rows of the opcode map (R95) -/

section
open Machine

theorem rowDecodes_cls : RowDecodes 0x00E0#16 0xFFFF#16 (fun _ => .cls) :=
  rowDecodes_FFFF _ rfl
theorem rowDecodes_ret : RowDecodes 0x00EE#16 0xFFFF#16 (fun _ => .ret) :=
  rowDecodes_FFFF _ rfl
theorem rowDecodes_jp : RowDecodes 0x1000#16 0xF000#16 (fun w => .jp (fieldNnn w)) :=
  rowDecodes_F000 0x1#4 fun _ => decode_family1
theorem rowDecodes_call : RowDecodes 0x2000#16 0xF000#16 (fun w => .call (fieldNnn w)) :=
  rowDecodes_F000 0x2#4 fun _ => decode_family2
theorem rowDecodes_seImm : RowDecodes 0x3000#16 0xF000#16 (fun w => .seImm (fieldX w) (fieldKk w)) :=
  rowDecodes_F000 0x3#4 fun _ => decode_family3
theorem rowDecodes_sneImm : RowDecodes 0x4000#16 0xF000#16 (fun w => .sneImm (fieldX w) (fieldKk w)) :=
  rowDecodes_F000 0x4#4 fun _ => decode_family4
theorem rowDecodes_seReg : RowDecodes 0x5000#16 0xF00F#16 (fun w => .seReg (fieldX w) (fieldY w)) :=
  rowDecodes_F00F 0x5#4 0x0#4 fun _ ho hn => by simp [decode_family5 ho, hn]
theorem rowDecodes_ldImm : RowDecodes 0x6000#16 0xF000#16 (fun w => .ldImm (fieldX w) (fieldKk w)) :=
  rowDecodes_F000 0x6#4 fun _ => decode_family6
theorem rowDecodes_addImm : RowDecodes 0x7000#16 0xF000#16 (fun w => .addImm (fieldX w) (fieldKk w)) :=
  rowDecodes_F000 0x7#4 fun _ => decode_family7
theorem rowDecodes_ldReg : RowDecodes 0x8000#16 0xF00F#16 (fun w => .ldReg (fieldX w) (fieldY w)) :=
  rowDecodes_F00F 0x8#4 0x0#4 fun _ ho hn => by simp [decode_family8 ho, decodeFamily8, hn]
theorem rowDecodes_orReg : RowDecodes 0x8001#16 0xF00F#16 (fun w => .orReg (fieldX w) (fieldY w)) :=
  rowDecodes_F00F 0x8#4 0x1#4 fun _ ho hn => by simp [decode_family8 ho, decodeFamily8, hn]
theorem rowDecodes_andReg : RowDecodes 0x8002#16 0xF00F#16 (fun w => .andReg (fieldX w) (fieldY w)) :=
  rowDecodes_F00F 0x8#4 0x2#4 fun _ ho hn => by simp [decode_family8 ho, decodeFamily8, hn]
theorem rowDecodes_xorReg : RowDecodes 0x8003#16 0xF00F#16 (fun w => .xorReg (fieldX w) (fieldY w)) :=
  rowDecodes_F00F 0x8#4 0x3#4 fun _ ho hn => by simp [decode_family8 ho, decodeFamily8, hn]
theorem rowDecodes_addReg : RowDecodes 0x8004#16 0xF00F#16 (fun w => .addReg (fieldX w) (fieldY w)) :=
  rowDecodes_F00F 0x8#4 0x4#4 fun _ ho hn => by simp [decode_family8 ho, decodeFamily8, hn]
theorem rowDecodes_sub : RowDecodes 0x8005#16 0xF00F#16 (fun w => .sub (fieldX w) (fieldY w)) :=
  rowDecodes_F00F 0x8#4 0x5#4 fun _ ho hn => by simp [decode_family8 ho, decodeFamily8, hn]
theorem rowDecodes_shr : RowDecodes 0x8006#16 0xF00F#16 (fun w => .shr (fieldX w) (fieldY w)) :=
  rowDecodes_F00F 0x8#4 0x6#4 fun _ ho hn => by simp [decode_family8 ho, decodeFamily8, hn]
theorem rowDecodes_subn : RowDecodes 0x8007#16 0xF00F#16 (fun w => .subn (fieldX w) (fieldY w)) :=
  rowDecodes_F00F 0x8#4 0x7#4 fun _ ho hn => by simp [decode_family8 ho, decodeFamily8, hn]
theorem rowDecodes_shl : RowDecodes 0x800E#16 0xF00F#16 (fun w => .shl (fieldX w) (fieldY w)) :=
  rowDecodes_F00F 0x8#4 0xE#4 fun _ ho hn => by simp [decode_family8 ho, decodeFamily8, hn]
theorem rowDecodes_sneReg : RowDecodes 0x9000#16 0xF00F#16 (fun w => .sneReg (fieldX w) (fieldY w)) :=
  rowDecodes_F00F 0x9#4 0x0#4 fun _ ho hn => by simp [decode_family9 ho, hn]
theorem rowDecodes_ldI : RowDecodes 0xA000#16 0xF000#16 (fun w => .ldI (fieldNnn w)) :=
  rowDecodes_F000 0xA#4 fun _ => decode_familyA
theorem rowDecodes_jpV0 : RowDecodes 0xB000#16 0xF000#16 (fun w => .jpV0 (fieldNnn w)) :=
  rowDecodes_F000 0xB#4 fun _ => decode_familyB
theorem rowDecodes_rnd : RowDecodes 0xC000#16 0xF000#16 (fun w => .rnd (fieldX w) (fieldKk w)) :=
  rowDecodes_F000 0xC#4 fun _ => decode_familyC
theorem rowDecodes_drw : RowDecodes 0xD000#16 0xF000#16 (fun w => .drw (fieldX w) (fieldY w) (fieldN w).toNat) :=
  rowDecodes_F000 0xD#4 fun _ => decode_familyD
theorem rowDecodes_skp : RowDecodes 0xE09E#16 0xF0FF#16 (fun w => .skp (fieldX w)) :=
  rowDecodes_F0FF 0xE#4 0x9E#8 fun _ ho hk => by simp [decode_familyE ho, decodeFamilyE, hk]
theorem rowDecodes_sknp : RowDecodes 0xE0A1#16 0xF0FF#16 (fun w => .sknp (fieldX w)) :=
  rowDecodes_F0FF 0xE#4 0xA1#8 fun _ ho hk => by simp [decode_familyE ho, decodeFamilyE, hk]
theorem rowDecodes_ldVxDt : RowDecodes 0xF007#16 0xF0FF#16 (fun w => .ldVxDt (fieldX w)) :=
  rowDecodes_F0FF 0xF#4 0x07#8 fun _ ho hk => by simp [decode_familyF ho, decodeFamilyF, hk]
theorem rowDecodes_ldVxK : RowDecodes 0xF00A#16 0xF0FF#16 (fun w => .ldVxK (fieldX w)) :=
  rowDecodes_F0FF 0xF#4 0x0A#8 fun _ ho hk => by simp [decode_familyF ho, decodeFamilyF, hk]
theorem rowDecodes_ldDtVx : RowDecodes 0xF015#16 0xF0FF#16 (fun w => .ldDtVx (fieldX w)) :=
  rowDecodes_F0FF 0xF#4 0x15#8 fun _ ho hk => by simp [decode_familyF ho, decodeFamilyF, hk]
theorem rowDecodes_ldStVx : RowDecodes 0xF018#16 0xF0FF#16 (fun w => .ldStVx (fieldX w)) :=
  rowDecodes_F0FF 0xF#4 0x18#8 fun _ ho hk => by simp [decode_familyF ho, decodeFamilyF, hk]
theorem rowDecodes_addIVx : RowDecodes 0xF01E#16 0xF0FF#16 (fun w => .addIVx (fieldX w)) :=
  rowDecodes_F0FF 0xF#4 0x1E#8 fun _ ho hk => by simp [decode_familyF ho, decodeFamilyF, hk]
theorem rowDecodes_ldFVx : RowDecodes 0xF029#16 0xF0FF#16 (fun w => .ldFVx (fieldX w)) :=
  rowDecodes_F0FF 0xF#4 0x29#8 fun _ ho hk => by simp [decode_familyF ho, decodeFamilyF, hk]
theorem rowDecodes_ldBVx : RowDecodes 0xF033#16 0xF0FF#16 (fun w => .ldBVx (fieldX w)) :=
  rowDecodes_F0FF 0xF#4 0x33#8 fun _ ho hk => by simp [decode_familyF ho, decodeFamilyF, hk]
theorem rowDecodes_ldMemVx : RowDecodes 0xF055#16 0xF0FF#16 (fun w => .ldMemVx (fieldX w)) :=
  rowDecodes_F0FF 0xF#4 0x55#8 fun _ ho hk => by simp [decode_familyF ho, decodeFamilyF, hk]
theorem rowDecodes_ldVxMem : RowDecodes 0xF065#16 0xF0FF#16 (fun w => .ldVxMem (fieldX w)) :=
  rowDecodes_F0FF 0xF#4 0x65#8 fun _ ho hk => by simp [decode_familyF ho, decodeFamilyF, hk]

/-- Every word of the row decodes to an instruction with the row's mnemonic. -/
def RowNamesItsInstr (row : OpcodeRow) : Prop :=
  ∃ f : Word → Instr, RowDecodes row.pattern row.mask f ∧ ∀ w, (f w).mnemonic = row.mnemonic

theorem opcodeRows_nameTheirInstr : ∀ row ∈ opcodeRows, RowNamesItsInstr row := by
  simp only [opcodeRows, opcodeRows0To7, opcodeRows8, opcodeRows9ToE, opcodeRowsF, List.cons_append, List.nil_append,
    List.forall_mem_cons]
  exact ⟨⟨_, rowDecodes_cls, fun _ => rfl⟩, ⟨_, rowDecodes_ret, fun _ => rfl⟩, ⟨_, rowDecodes_jp, fun _ => rfl⟩,
    ⟨_, rowDecodes_call, fun _ => rfl⟩, ⟨_, rowDecodes_seImm, fun _ => rfl⟩,
    ⟨_, rowDecodes_sneImm, fun _ => rfl⟩, ⟨_, rowDecodes_seReg, fun _ => rfl⟩,
    ⟨_, rowDecodes_ldImm, fun _ => rfl⟩, ⟨_, rowDecodes_addImm, fun _ => rfl⟩,
    ⟨_, rowDecodes_ldReg, fun _ => rfl⟩, ⟨_, rowDecodes_orReg, fun _ => rfl⟩,
    ⟨_, rowDecodes_andReg, fun _ => rfl⟩, ⟨_, rowDecodes_xorReg, fun _ => rfl⟩,
    ⟨_, rowDecodes_addReg, fun _ => rfl⟩, ⟨_, rowDecodes_sub, fun _ => rfl⟩, ⟨_, rowDecodes_shr, fun _ => rfl⟩,
    ⟨_, rowDecodes_subn, fun _ => rfl⟩, ⟨_, rowDecodes_shl, fun _ => rfl⟩, ⟨_, rowDecodes_sneReg, fun _ => rfl⟩,
    ⟨_, rowDecodes_ldI, fun _ => rfl⟩, ⟨_, rowDecodes_jpV0, fun _ => rfl⟩, ⟨_, rowDecodes_rnd, fun _ => rfl⟩,
    ⟨_, rowDecodes_drw, fun _ => rfl⟩, ⟨_, rowDecodes_skp, fun _ => rfl⟩, ⟨_, rowDecodes_sknp, fun _ => rfl⟩,
    ⟨_, rowDecodes_ldVxDt, fun _ => rfl⟩, ⟨_, rowDecodes_ldVxK, fun _ => rfl⟩,
    ⟨_, rowDecodes_ldDtVx, fun _ => rfl⟩, ⟨_, rowDecodes_ldStVx, fun _ => rfl⟩,
    ⟨_, rowDecodes_addIVx, fun _ => rfl⟩, ⟨_, rowDecodes_ldFVx, fun _ => rfl⟩,
    ⟨_, rowDecodes_ldBVx, fun _ => rfl⟩, ⟨_, rowDecodes_ldMemVx, fun _ => rfl⟩,
    ⟨_, rowDecodes_ldVxMem, fun _ => rfl⟩, List.forall_mem_nil _⟩

/-- The instruction of a word that matches a row bears the row's mnemonic. -/
theorem decode_of_matches {w : Word} {row : OpcodeRow} (hrow : row ∈ opcodeRows) (hw : row.matches w = true) :
    ∃ i, decode w = .ok i ∧ i.mnemonic = row.mnemonic := by
  obtain ⟨f, hf, hname⟩ := opcodeRows_nameTheirInstr row hrow
  exact ⟨f w, hf w (eq_of_beq hw), hname w⟩

/-- No two rows bear the same mnemonic. -/
theorem opcodeRows_eq_of_mnemonic_eq {row row' : OpcodeRow} (hrow : row ∈ opcodeRows) (hrow' : row' ∈ opcodeRows)
    (h : row.mnemonic = row'.mnemonic) : row = row' :=
  List.inj_on_of_nodup_map (f := OpcodeRow.mnemonic) (by decide) hrow hrow' h

end

end Sys2Proof

namespace Sys2Proof.Laws.EncodeInRow

/-- The word of every instruction matches its row. -/
theorem encode_matches_row : ∀ i : Instr, Statement i
  | .cls => cls
  | .ret => ret
  | .jp nnn => jp nnn
  | .call nnn => call nnn
  | .seImm x kk => seImm x kk
  | .sneImm x kk => sneImm x kk
  | .seReg x y => seReg x y
  | .ldImm x kk => ldImm x kk
  | .addImm x kk => addImm x kk
  | .ldReg x y => ldReg x y
  | .orReg x y => orReg x y
  | .andReg x y => andReg x y
  | .xorReg x y => xorReg x y
  | .addReg x y => addReg x y
  | .sub x y => sub x y
  | .shr x y => shr x y
  | .subn x y => subn x y
  | .shl x y => shl x y
  | .sneReg x y => sneReg x y
  | .ldI nnn => ldI nnn
  | .jpV0 nnn => jpV0 nnn
  | .rnd x kk => rnd x kk
  | .drw x y n => drw x y n
  | .skp x => skp x
  | .sknp x => sknp x
  | .ldVxDt x => ldVxDt x
  | .ldVxK x => ldVxK x
  | .ldDtVx x => ldDtVx x
  | .ldStVx x => ldStVx x
  | .addIVx x => addIVx x
  | .ldFVx x => ldFVx x
  | .ldBVx x => ldBVx x
  | .ldMemVx x => ldMemVx x
  | .ldVxMem x => ldVxMem x

end Sys2Proof.Laws.EncodeInRow

open Sys2Proof Sys2Proof.Machine

/-- Settles O1, by the cases of the instruction. -/
theorem decodeOfEncode : Obligations.DecodeOfEncode := fun _ => decode_encode

/-- Settles O2, by the families of the decoder. -/
theorem encodeOfDecode : Obligations.EncodeOfDecode := fun _ _ => encode_of_decode

/-- Settles O3: the word of an instruction matches its row, each row decodes to instructions of its own mnemonic, and no
mnemonic stands twice. -/
theorem legalWordsMatchOneRow : Obligations.LegalWordsMatchOneRow := by
  refine ⟨rfl, fun w => ⟨?_, ?_⟩, fun w i row hi hrow hw => ?_, fun w row row' hrow hrow' hw hw' => ?_⟩
  · rintro ⟨i, hi⟩
    obtain ⟨row, hrow, -, hmatch⟩ := Laws.EncodeInRow.encode_matches_row i
    rw [(encode_of_decode hi).2] at hmatch
    exact ⟨row, hrow, hmatch⟩
  · rintro ⟨row, hrow, hw⟩
    obtain ⟨i, hi, -⟩ := decode_of_matches hrow hw
    exact ⟨i, hi⟩
  · obtain ⟨j, hj, hname⟩ := decode_of_matches hrow hw
    cases hi.symm.trans hj
    exact hname.symm
  · obtain ⟨i, hi, hname⟩ := decode_of_matches hrow hw
    obtain ⟨j, hj, hname'⟩ := decode_of_matches hrow' hw'
    cases hi.symm.trans hj
    exact opcodeRows_eq_of_mnemonic_eq hrow hrow' (hname.symm.trans hname')

end

section
/-! Illegal words (spec/30_encoding.md R98), refusals (R99) and the source's example words (R102). -/

namespace Sys2Proof.Machine

/-! ### Illegal words (R98) -/

theorem ite_ok_eq_error_iff {c : Prop} [Decidable c] {i : Instr} {q : Except DecodeReject Instr} {r : DecodeReject} :
    (if c then .ok i else q) = .error r ↔ ¬ c ∧ q = .error r := by
  split <;> simp [*]

theorem decodeFamily0_error_iff (w : Word) :
    decodeFamily0 w = .error (.illegalWord w) ↔ w ≠ 0x00E0#16 ∧ w ≠ 0x00EE#16 := by
  simp [decodeFamily0, ite_ok_eq_error_iff]

/-- The low nibbles that family 8 leaves out. -/
theorem nibble_not_subOpcode8_iff (n : BitVec 4) :
    n ∈ [0x8#4, 0x9#4, 0xA#4, 0xB#4, 0xC#4, 0xD#4, 0xF#4] ↔
      n ∉ [0x0#4, 0x1#4, 0x2#4, 0x3#4, 0x4#4, 0x5#4, 0x6#4, 0x7#4, 0xE#4] := by
  revert n; decide

theorem decodeFamily8_error_iff (w : Word) :
    decodeFamily8 w = .error (.illegalWord w) ↔ fieldN w ∈ [0x8#4, 0x9#4, 0xA#4, 0xB#4, 0xC#4, 0xD#4, 0xF#4] := by
  rw [nibble_not_subOpcode8_iff]
  simp [decodeFamily8, ite_ok_eq_error_iff]

theorem decodeFamilyE_error_iff (w : Word) :
    decodeFamilyE w = .error (.illegalWord w) ↔ fieldKk w ∉ [0x9E#8, 0xA1#8] := by
  simp [decodeFamilyE, ite_ok_eq_error_iff]

theorem decodeFamilyF_error_iff (w : Word) :
    decodeFamilyF w = .error (.illegalWord w) ↔
      fieldKk w ∉ [0x07#8, 0x0A#8, 0x15#8, 0x18#8, 0x1E#8, 0x29#8, 0x33#8, 0x55#8, 0x65#8] := by
  simp [decodeFamilyF, ite_ok_eq_error_iff]

/-- The rejected words are those of R98's table, family by family. -/
theorem decode_error_iff (w : Word) : decode w = .error (.illegalWord w) ↔ IllegalWord w := by
  unfold IllegalWord
  rcases nibble_cases (fieldOp w) with
    ho | ho | ho | ho | ho | ho | ho | ho | ho | ho | ho | ho | ho | ho | ho | ho
  · simp [decode_family0 ho, decodeFamily0_error_iff, ho]
  · simp [decode_family1 ho, ho]
  · simp [decode_family2 ho, ho]
  · simp [decode_family3 ho, ho]
  · simp [decode_family4 ho, ho]
  · simp [decode_family5 ho, ho]
  · simp [decode_family6 ho, ho]
  · simp [decode_family7 ho, ho]
  · simp [decode_family8 ho, decodeFamily8_error_iff, ho]
  · simp [decode_family9 ho, ho]
  · simp [decode_familyA ho, ho]
  · simp [decode_familyB ho, ho]
  · simp [decode_familyC ho, ho]
  · simp [decode_familyD ho, ho]
  · simp [decode_familyE ho, decodeFamilyE_error_iff, ho]
  · simp [decode_familyF ho, decodeFamilyF_error_iff, ho]

/-- A word decodes to nothing exactly when it is rejected by its name. -/
theorem decode_ne_ok_iff (w : Word) : (∀ i, decode w ≠ .ok i) ↔ decode w = .error (.illegalWord w) := by
  cases h : decode w with
  | ok i => simp
  | error r => simp [decode_reject h]

/-- A step that fetches an illegal word raises `DecodeError` (R98, R123). -/
theorem step_illegal {s : State} {w : Word} (hf : fetch s = .ok w) (hw : IllegalWord w) :
    step s = .fault (.decodeError w s.pc) := by
  have hfetch : fetchInstr s.tick = .error (.decodeError w s.pc) := by
    rw [fetchInstr_tick, fetchInstr, hf]
    simp only [(decode_error_iff w).2 hw]
  simp only [step, hfetch]

/-! ### No refusal (R99) -/

theorem withRange_ne_refused {s : State} {a n : Nat} {k : Result} {r : Refusal} (hk : k ≠ .refused r) :
    withRange s a n k ≠ .refused r := by
  rcases withRange_cases s a n k with ⟨-, he⟩ | ⟨-, he⟩
  · rwa [he]
  · simp [he]

theorem withKey_ne_refused {s : State} {x : Reg} {k : Fin 16 → Result} {r : Refusal}
    (hk : ∀ key, k key ≠ .refused r) : withKey s x k ≠ .refused r := by
  rcases withKey_cases s x k with ⟨h, he⟩ | ⟨-, he⟩
  · rw [he]
    exact hk _
  · simp [he]

theorem pushReturn_ne_refused (s : State) (ret target : Word) (r : Refusal) :
    pushReturn s ret target ≠ .refused r := by
  rcases pushReturn_cases s ret target with ⟨_, he⟩ | ⟨-, he⟩ | ⟨-, he⟩
  all_goals simp [he]

theorem popReturn_ne_refused (s : State) (r : Refusal) : popReturn s ≠ .refused r := by
  rcases popReturn_cases s with ⟨-, he⟩ | ⟨_, -, he⟩ | ⟨-, he⟩
  all_goals simp [he]

theorem execLdVxK_ne_refused (x : Reg) (s : State) (r : Refusal) : execLdVxK x s ≠ .refused r := by
  cases h : s.latch <;> simp [execLdVxK, h]

/-- The shared operations answer a next state or an error, and every other arm of the dispatch a next state. -/
theorem exec_ne_refused (i : Instr) (s : State) (r : Refusal) : exec i s ≠ .refused r := by
  cases i with
  | ret => exact popReturn_ne_refused s r
  | call => exact pushReturn_ne_refused s _ _ r
  | drw | ldBVx | ldMemVx | ldVxMem => exact withRange_ne_refused nofun
  | skp | sknp => exact withKey_ne_refused nofun
  | ldVxK x => exact execLdVxK_ne_refused x s r
  | _ => nofun

theorem step_ne_refused (s : State) (r : Refusal) : step s ≠ .refused r := by
  rcases step_cases s with ⟨_, -, he⟩ | ⟨i, -, he⟩
  · simp [he]
  · rw [he]
    exact exec_ne_refused i s.tick r

/-! ### A loaded ROM (R300, R301) -/

/-- A byte of a loaded ROM (R300). -/
theorem load_byte {draws : Nat} {rom : List Byte} {s : State} (h : load draws rom = .next s) {k : Nat}
    (hk : k < rom.length) : s.byte (0x200 + k) = rom.getD k 0#8 := by
  rcases load_cases draws rom with ⟨hlen, he⟩ | ⟨-, he⟩
  · cases he.symm.trans h
    have hfit : 0x200 + rom.length ≤ Config.memSize := by
      simp only [Config.memSize]
      omega
    rw [State.byte, memGet_memStore rom _ rfl hfit, if_pos (by omega), Nat.add_sub_cancel_left]
  · cases he.symm.trans h

/-- A loaded engine starts at 0x200 (R301). -/
theorem load_pc {draws : Nat} {rom : List Byte} {s : State} (h : load draws rom = .next s) : s.pc = 0x200#16 := by
  rcases load_cases draws rom with ⟨-, he⟩ | ⟨-, he⟩
  all_goals cases he.symm.trans h
  rfl

end Sys2Proof.Machine

open Sys2Proof Sys2Proof.Machine

/-- Settles O5, by the families of the decoder; a step turns the rejection into its error. -/
theorem illegalWordsAreTheTable : Obligations.IllegalWordsAreTheTable :=
  ⟨decode_error_iff, fun w => (decode_ne_ok_iff w).trans (decode_error_iff w), fun _ _ => step_illegal⟩

/-- Settles O14, by the cases of the dispatch. -/
theorem nothingIsRefused : Obligations.NothingIsRefused := ⟨exec_ne_refused, step_ne_refused⟩

/-- Settles O4: the loaded bytes are fetched, and each word is one of its row. -/
theorem sourceExampleWordsDecode : Obligations.SourceExampleWordsDecode := by
  refine ⟨fun draws s h => ?_, rfl, rowDecodes_jp _ rfl, rfl, rowDecodes_call _ rfl, rowDecodes_cls _ rfl,
    rowDecodes_ret _ rfl, rfl, rfl, rfl, rfl, rfl, rfl, rowDecodes_drw _ rfl⟩
  have h0 : s.byte 0x200 = 0x17#8 := load_byte h (k := 0) (by decide)
  have h1 : s.byte 0x201 = 0x89#8 := load_byte h (k := 1) (by decide)
  refine ⟨h0, h1, ?_⟩
  have hpc : s.pc.toNat = 0x200 := by rw [load_pc h]; rfl
  rw [fetch_eq, hpc, if_pos (by decide), h0, h1]
  rfl

end

section
/-! The frame of an instruction and its new `pc` (spec/40_engine_cycle.md R124, R125). -/

namespace Sys2Proof.Machine

/-! ### Frames -/

/-- A frame says of each part outside the list that it is the same; with the list written out, `simp` decides which
parts those are. -/
theorem onlyChanges_iff {ps : List Part} {s t : State} :
    OnlyChanges ps s t ↔
      (.v ∉ ps → ∀ r, t.reg r = s.reg r) ∧ (.i ∉ ps → t.i = s.i) ∧ (.pc ∉ ps → t.pc = s.pc) ∧
      (.sp ∉ ps → t.sp = s.sp) ∧ (.stack ∉ ps → ∀ j, t.slot j = s.slot j) ∧ (.dt ∉ ps → t.dt = s.dt) ∧
      (.st ∉ ps → t.st = s.st) ∧ (.mem ∉ ps → ∀ a, t.byte a = s.byte a) ∧
      (.fb ∉ ps → ∀ x y, getPixel t.fb x y = getPixel s.fb x y) ∧ (.keys ∉ ps → ∀ k, t.key k = s.key k) ∧
      (.latch ∉ ps → t.latch = s.latch) ∧ (.draws ∉ ps → t.draws = s.draws) := by
  constructor
  · intro h
    exact ⟨h .v, h .i, h .pc, h .sp, h .stack, h .dt, h .st, h .mem, h .fb, h .keys, h .latch, h .draws⟩
  · rintro ⟨hv, hi, hpc, hsp, hstack, hdt, hst, hmem, hfb, hkeys, hlatch, hdraws⟩ p
    cases p
    exacts [hv, hi, hpc, hsp, hstack, hdt, hst, hmem, hfb, hkeys, hlatch, hdraws]

theorem State.tick_onlyChanges (s : State) : OnlyChanges [.dt, .st] s s.tick := by
  simp [onlyChanges_iff]

/-- An instruction that completes leaves every part outside its list as it was: the state it gives is made of updates
of the listed parts only. -/
theorem exec_onlyChanges {i : Instr} {s t : State} (h : exec i s = .next t) : OnlyChanges (mayChange i) s t := by
  rw [onlyChanges_iff]
  cases i with
  | ret =>
    obtain ⟨_, -, rfl⟩ := popReturn_eq_next.1 h
    simp [mayChange]
  | call =>
    obtain ⟨_, rfl⟩ := pushReturn_eq_next.1 h
    simp [mayChange]
  | skp | sknp =>
    obtain ⟨_, ⟨⟩⟩ := withKey_eq_next.1 h
    simp [mayChange]
  | drw | ldBVx | ldMemVx | ldVxMem =>
    obtain ⟨-, ⟨⟩⟩ := withRange_eq_next.1 h
    simp [mayChange]
  | ldVxK =>
    rcases execLdVxK_eq_next.1 h with ⟨-, rfl⟩ | ⟨-, rfl⟩ | ⟨_, -, rfl⟩
    all_goals simp [mayChange]
  | _ =>
    cases h
    simp [mayChange]

/-! ### The new `pc` -/

/-- The sum of an advance is exact wherever an instruction can be fetched (log 7). -/
theorem State.advance_pc_toNat {s : State} (h : s.pc.toNat ≤ 0xFFE) : s.advance.pc.toNat = s.pc.toNat + 2 := by
  rw [State.advance, State.setPc_pc, BitVec.toNat_add_of_lt (by simp only [BitVec.toNat_ofNat]; omega)]
  rfl

/-- So is the sum of a skip. -/
theorem State.skipIf_pc_toNat {s : State} (h : s.pc.toNat ≤ 0xFFE) (c : Bool) :
    (s.skipIf c).pc.toNat = if c then s.pc.toNat + 4 else s.pc.toNat + 2 := by
  cases c
  · exact State.advance_pc_toNat h
  · rw [State.skipIf, State.setPc_pc, if_pos rfl, if_pos rfl,
      BitVec.toNat_add_of_lt (by simp only [BitVec.toNat_ofNat]; omega)]
    rfl

theorem jumpV0Target_toNat (nnn : BitVec 12) (v0 : Byte) : (jumpV0Target nnn v0).toNat = nnn.toNat + v0.toNat := by
  rw [jumpV0Target, trunc16_toNat]
  omega

/-- The level of a key of the keypad, read as `nextPc` reads it. -/
theorem State.key_eq_iff (s : State) (k : Fin 16) (b : Bool) : s.key k = b ↔ s.keys[k.val]? = some b := by
  simp [State.key]

/-- The new `pc` by the rows of R124: a jump's target, the popped slot, a skip, the end of a key wait, or an advance. -/
theorem exec_pc_toNat {i : Instr} {s t : State} (hpc : s.pc.toNat ≤ 0xFFE) (h : exec i s = .next t) :
    t.pc.toNat = nextPc i s := by
  cases i with
  | jp nnn =>
    cases h
    exact zextAddr_toNat nnn
  | call nnn =>
    obtain ⟨_, rfl⟩ := pushReturn_eq_next.1 h
    exact zextAddr_toNat nnn
  | ret =>
    obtain ⟨hsp, -, rfl⟩ := popReturn_eq_next.1 h
    exact congrArg BitVec.toNat (State.slot_of_lt s _ hsp).symm
  | jpV0 nnn =>
    cases h
    exact jumpV0Target_toNat nnn _
  | seImm | seReg =>
    cases h
    exact (State.skipIf_pc_toNat hpc _).trans (if_congr beq_iff_eq rfl rfl)
  | sneImm | sneReg =>
    cases h
    exact (State.skipIf_pc_toNat hpc _).trans (if_congr bne_iff_ne rfl rfl)
  | skp =>
    obtain ⟨hk, ⟨⟩⟩ := withKey_eq_next.1 h
    exact (State.skipIf_pc_toNat hpc _).trans (if_congr (s.key_eq_iff ⟨_, hk⟩ true) rfl rfl)
  | sknp =>
    obtain ⟨hk, ⟨⟩⟩ := withKey_eq_next.1 h
    exact (State.skipIf_pc_toNat hpc _).trans
      (if_congr ((iff_of_eq (Bool.not_eq_true' _)).trans (s.key_eq_iff ⟨_, hk⟩ false)) rfl rfl)
  | ldVxK =>
    unfold nextPc
    rcases execLdVxK_eq_next.1 h with ⟨hl, rfl⟩ | ⟨hl, rfl⟩ | ⟨_, hl, rfl⟩
    · rw [hl]
      rfl
    · rw [hl]
    · rw [hl]
      exact State.advance_pc_toNat hpc
  | drw | ldBVx | ldMemVx | ldVxMem =>
    obtain ⟨-, ⟨⟩⟩ := withRange_eq_next.1 h
    exact State.advance_pc_toNat hpc
  | _ =>
    cases h
    exact State.advance_pc_toNat hpc

end Sys2Proof.Machine

open Sys2Proof Sys2Proof.Machine

/-- Settles O20, by the cases of the dispatch. -/
theorem otherPartsKeepTheirValue : Obligations.OtherPartsKeepTheirValue := fun _ _ _ h => exec_onlyChanges h

/-- Settles O22, by the rows of the table. -/
theorem nextPcIsTheTable : Obligations.NextPcIsTheTable := fun _ _ _ hpc h => exec_pc_toNat hpc h

end

section
/-! One step and runs of host operations (spec/40_engine_cycle.md R120 to R131): what a step does once its instruction
is known, what the host's step answers, and a run taken one operation at a time. -/

namespace Sys2Proof.Machine

/-! ### The step -/

/-- A word in memory that decodes is the instruction fetched (R122, R123). -/
theorem fetchInstr_of_decode {s : State} {i : Instr} (hpc : s.pc.toNat < 4095)
    (h : decode (wordOfBytes (s.byte s.pc.toNat) (s.byte (s.pc.toNat + 1))) = .ok i) : fetchInstr s = .ok i := by
  rw [fetchInstr_eq, if_pos hpc, h]

/-- The step runs the instruction fetched, on the state the timer phase leaves (R125). -/
theorem step_of_fetchInstr {s : State} {i : Instr} (h : fetchInstr s = .ok i) : step s = exec i s.tick := by
  rw [step, fetchInstr_tick, h]

/-- At an LD_VX_K with the latch Idle, the step begins the wait (R234). -/
theorem step_begins_wait {s : State} {x : Reg} (hf : fetchInstr s = .ok (.ldVxK x)) (hl : s.latch = .idle) :
    step s = .next (s.tick.setLatch .waiting) :=
  (step_of_fetchInstr hf).trans (execLdVxK_eq_next.2 (.inl ⟨hl, rfl⟩))

/-- At an LD_VX_K with a key resolved, the step takes the key (R234). -/
theorem step_takes_key {s : State} {x : Reg} {k : Fin 16} (hf : fetchInstr s = .ok (.ldVxK x))
    (hl : s.latch = .resolved k) :
    step s = .next ((s.tick.setReg x (zextKey k)).setLatch .idle).advance :=
  (step_of_fetchInstr hf).trans (execLdVxK_eq_next.2 (.inr (.inr ⟨k, hl, rfl⟩)))

/-! The fetch reads neither the keys nor the latch. -/

@[simp] theorem fetchInstr_setKey (s : State) (k : Fin 16) (b : Bool) : fetchInstr (s.setKey k b) = fetchInstr s :=
  fetchInstr_congr rfl fun _ => rfl

@[simp] theorem fetchInstr_setLatch (s : State) (l : Latch) : fetchInstr (s.setLatch l) = fetchInstr s :=
  fetchInstr_congr rfl fun _ => rfl

theorem zextKey_toNat (k : Fin 16) : (zextKey k).toNat = k.val := by
  rw [zextKey, BitVec.toNat_ofNat]
  omega

/-! ### Host operations -/

theorem hostCall_step_next {s t : State} (h : step s = .next t) : hostCall .step s = .next (t, .ok) := by
  simp only [hostCall, h]

/-- An error of a step is answered with the state from before its timer phase (R127). -/
theorem hostCall_step_fault {s : State} {f : Fault} (h : step s = .fault f) :
    hostCall .step s = .next (s, .err f) := by
  simp only [hostCall, h]

theorem hostCall_keyPressed (k : Fin 16) (s : State) :
    hostCall (.keyPressed k.val) s = .next (s.pressKey k, .ok) := by
  simp only [hostCall, keyPressed, k.isLt, dite_true, replyOk]

theorem hostCall_keyReleased (k : Fin 16) (s : State) :
    hostCall (.keyReleased k.val) s = .next (s.releaseKey k, .ok) := by
  simp only [hostCall, keyReleased, k.isLt, dite_true, replyOk]

/-- A run is its first operation, answered, and the rest of it from there. -/
theorem hostRun_cons {op : HostOp} {ops : List HostOp} {s t u : State} {r : HostReply}
    (h : hostCall op s = .next (t, r)) (hrun : hostRun ops t = some u) : hostRun (op :: ops) s = some u := by
  simp only [hostRun, h, hrun]

/-- The host may go on stepping after an error, and stays where it is (R127, R128). -/
theorem hostRun_replicate_step_of_fault {s : State} {f : Fault} (h : step s = .fault f) (k : Nat) :
    hostRun (List.replicate k .step) s = some s := by
  induction k with
  | zero => rfl
  | succ k ih => exact hostRun_cons (hostCall_step_fault h) ih

end Sys2Proof.Machine

open Sys2Proof Sys2Proof.Machine

/-- Settles O6: the word at `pc` is the instruction fetched, and the timer phase does not change it. -/
theorem stepRunsDecodedInstruction : Obligations.StepRunsDecodedInstruction :=
  fun _ _ hpc h => step_of_fetchInstr (fetchInstr_of_decode (Nat.lt_sub_of_add_lt hpc) h)

/-- Settles O8: the phase is `tick`, the later phases run on the state it leaves, and an error is answered with the
state before it. -/
theorem timerPhaseComesFirst : Obligations.TimerPhaseComesFirst := by
  refine ⟨fun s => ⟨decTimer_toNat s.dt, decTimer_toNat s.st, s.tick_onlyChanges⟩, fun s t h => ?_,
    fun _ _ h => hostCall_step_fault h⟩
  obtain ⟨i, hi, hexec⟩ := step_eq_next h
  exact ⟨i, (fetchInstr_tick s).trans hi, hexec⟩

/-- Settles O9, by the two outcomes of the step. -/
theorem stepCommitsOrRollsBack : Obligations.StepCommitsOrRollsBack :=
  fun _ => ⟨fun _ h => hostCall_step_next h, fun _ h => hostCall_step_fault h⟩

/-- Settles O10: each step raises the same error, so the engine stays where it is. -/
theorem decodeErrorRepeats : Obligations.DecodeErrorRepeats :=
  fun _ _ k hf hw => ⟨hostRun_replicate_step_of_fault (step_illegal hf hw) k, hostCall_step_fault (step_illegal hf hw)⟩

/-- Settles O50: the fetch finds the same LD_VX_K at each step, so the latch alone says what the step does. A release
resolves the wait that a step began, and leaves an Idle latch Idle. -/
theorem waitEndsWithTheReleaseAfterItBegan : Obligations.WaitEndsWithTheReleaseAfterItBegan := by
  intro s x k hf hl
  constructor
  · have hfetch : fetchInstr (((s.tick.setLatch .waiting).pressKey k).releaseKey k) = .ok (.ldVxK x) := by
      simpa using hf
    exact ⟨_, hostRun_cons (hostCall_step_next (step_begins_wait hf hl)) <|
      hostRun_cons (hostCall_keyPressed k _) <| hostRun_cons (hostCall_keyReleased k _) <|
      hostRun_cons (hostCall_step_next (step_takes_key hfetch rfl)) rfl, by simp [zextKey_toNat]⟩
  · have hfetch : fetchInstr ((s.pressKey k).releaseKey k) = .ok (.ldVxK x) := by
      simpa using hf
    have hidle : ((s.pressKey k).releaseKey k).latch = .idle := by simp [hl, Latch.onRelease]
    exact ⟨_, hostRun_cons (hostCall_keyPressed k s) <| hostRun_cons (hostCall_keyReleased k _) <|
      hostRun_cons (hostCall_step_next (step_begins_wait hfetch hidle)) rfl, by simp⟩

end

section
/-! Control flow (spec/41_control_flow.md R140 to R148): the state each instruction leaves, and from it the new `pc`, the
stack and the frame. -/

namespace Sys2Proof.Machine

/-! ### Jumps and skips -/

theorem State.setPc_onlyChanges (s : State) (w : Word) : OnlyChanges [.pc] s (s.setPc w) := by
  simp [onlyChanges_iff]

/-- A skip on a test that decides `c` (R124). -/
theorem State.skipIf_skips {c : Prop} {b : Bool} (s : State) (hb : b = true ↔ c) : Skips c s (s.skipIf b) :=
  ⟨fun hc => if_pos (hb.2 hc), fun hc => if_neg (mt hb.1 hc), s.setPc_onlyChanges _⟩

/-! ### Call and return -/

/-- CALL with a free slot (R143). -/
theorem exec_call_of_lt {s : State} (h : s.sp.toNat < 16) (nnn : BitVec 12) :
    exec (.call nnn) s = .next (s.push h (s.pc + 2#16) (zextAddr nnn)) :=
  pushReturn_eq_next.2 ⟨h, rfl⟩

/-- CALL with no free slot (R143). -/
theorem exec_call_of_full {s : State} (h : s.sp.toNat = 16) (nnn : BitVec 12) :
    exec (.call nnn) s = .fault (.stackOverflow s.pc) := by
  rcases pushReturn_cases s (s.pc + 2#16) (zextAddr nnn) with ⟨hlt, -⟩ | ⟨-, he⟩ | ⟨hgt, -⟩
  · omega
  · exact he
  · omega

/-- RET with a slot to pop (R141). -/
theorem exec_ret_of_pos {s : State} (hpos : 0 < s.sp.toNat) (h : s.sp.toNat - 1 < 16) :
    exec .ret s = .next (s.pop h) :=
  popReturn_eq_next.2 ⟨h, hpos, rfl⟩

/-- RET with no slot occupied (R141). -/
theorem exec_ret_of_empty {s : State} (h : s.sp.toNat = 0) : exec .ret s = .fault (.stackUnderflow s.pc) := by
  rcases popReturn_cases s with ⟨-, he⟩ | ⟨-, hpos, -⟩ | ⟨hgt, -⟩
  · exact he
  · omega
  · omega

theorem State.push_sp_toNat {s : State} (h : s.sp.toNat < 16) (ret target : Word) :
    (s.push h ret target).sp.toNat = s.sp.toNat + 1 := by
  rw [State.push_sp, BitVec.toNat_add_of_lt (by simp only [BitVec.toNat_ofNat]; omega)]
  rfl

theorem State.pop_sp_toNat {s : State} (hpos : 0 < s.sp.toNat) (h : s.sp.toNat - 1 < 16) :
    (s.pop h).sp.toNat = s.sp.toNat - 1 := by
  rw [State.pop_sp, BitVec.toNat_sub_of_le (show 1#8 ≤ s.sp from BitVec.le_def.2 hpos)]
  rfl

/-- A pop takes `pc` from the top slot. -/
theorem State.pop_pc_eq_slot {s : State} (h : s.sp.toNat - 1 < 16) : (s.pop h).pc = s.slot (s.sp.toNat - 1) :=
  (s.slot_of_lt _ h).symm

end Sys2Proof.Machine

open Sys2Proof Sys2Proof.Machine

/-- Settles O25, by whether a slot is free. -/
theorem callPushesReturnAddress : Obligations.CallPushesReturnAddress := by
  refine ⟨rowDecodes_call, fun nnn s hsp => ?_, fun nnn s hsp => exec_call_of_full hsp nnn⟩
  have hexec := exec_call_of_lt hsp nnn
  refine ⟨_, hexec, ?_, fun j hj => ?_, State.push_sp_toNat hsp _ _, zextAddr_toNat nnn, exec_onlyChanges hexec⟩
  · rw [State.push_slot, if_pos rfl]
  · rw [State.push_slot, if_neg hj]

/-- Settles O26, by whether a slot is occupied. -/
theorem returnPopsAddress : Obligations.ReturnPopsAddress := by
  refine ⟨rowDecodes_ret, fun s hpos hle => ?_, fun s hsp => exec_ret_of_empty hsp⟩
  have htop : s.sp.toNat - 1 < 16 := by omega
  have hexec := exec_ret_of_pos hpos htop
  exact ⟨_, hexec, State.pop_pc_eq_slot htop, State.pop_sp_toNat hpos htop, exec_onlyChanges hexec⟩

/-- Settles O27: the slot the return pops is the one the call pushed. -/
theorem returnUndoesCall : Obligations.ReturnUndoesCall := by
  intro nnn s t u hcall husp hslot
  obtain ⟨hsp, rfl⟩ := pushReturn_eq_next.1 hcall
  have hu : u.sp.toNat = s.sp.toNat + 1 := by rw [husp, State.push_sp_toNat]
  have htop : u.sp.toNat - 1 < 16 := by omega
  refine ⟨_, exec_ret_of_pos (by omega) htop, ?_, ?_⟩
  · rw [State.pop_pc_eq_slot, hslot, State.push_slot, if_pos (by omega)]
  · rw [State.pop_sp, husp, State.push_sp, BitVec.add_sub_cancel]

/-- Settles O30: each row's test decides its condition. -/
theorem registerSkips : Obligations.RegisterSkips :=
  ⟨rowDecodes_seImm, rowDecodes_sneImm, rowDecodes_seReg, rowDecodes_sneReg,
    fun _ _ s => ⟨⟨_, rfl, s.skipIf_skips beq_iff_eq⟩, _, rfl, s.skipIf_skips bne_iff_ne⟩,
    fun _ _ s => ⟨⟨_, rfl, s.skipIf_skips beq_iff_eq⟩, _, rfl, s.skipIf_skips bne_iff_ne⟩⟩

/-- Settles O24: the 12-bit address is extended unchanged. -/
theorem jumpSetsPc : Obligations.JumpSetsPc :=
  ⟨rowDecodes_jp, fun nnn s => ⟨_, rfl, zextAddr_toNat nnn, s.setPc_onlyChanges _⟩⟩

/-- Settles O29: the sum fits 16 bits, so narrowing keeps it. -/
theorem jumpAddsV0 : Obligations.JumpAddsV0 :=
  ⟨rowDecodes_jpV0, fun nnn s => ⟨_, rfl, jumpV0Target_toNat nnn (s.reg regV0), s.setPc_onlyChanges _⟩⟩

end

section
/-! ALU (spec/42_alu.md R160 to R173): the two shapes of a register write, with a flag and without, and the results and
flags as the numbers the rules give. -/

namespace Sys2Proof.Machine

/-! ### Register writes -/

theorem State.setReg_advance_setsReg (s : State) (x : Reg) {b b' : Byte} (hb : b = b') :
    SetsReg x b' s (s.setReg x b).advance := by
  subst hb
  refine ⟨by simp, fun r hr => by simp [hr], rfl, ?_⟩
  simp [onlyChanges_iff]

/-- The flag is written last, so it is what VF holds even when VF is the destination (R160). -/
theorem State.setRegFlag_advance_setsRegAndFlag (s : State) (x : Reg) {b b' : Byte} {flag flag' : Bool}
    (hb : b = b') (hflag : flag = flag') : SetsRegAndFlag x b' flag' s (s.setRegFlag x b flag).advance := by
  subst hb hflag
  refine ⟨s.setRegFlag_reg_VF x b flag, fun hx => by simp [hx, regVF], fun r hr hf => by simp [hr, hf, regVF], rfl, ?_⟩
  simp [onlyChanges_iff]

/-! ### Shifts as numbers -/

theorem shrResult_eq_ofNat (a : Byte) : shrResult a = BitVec.ofNat 8 (a.toNat / 2) := by
  apply BitVec.eq_of_toNat_eq
  rw [shrResult, BitVec.toNat_ushiftRight, BitVec.toNat_ofNat]
  omega

theorem shrOut_eq (a : Byte) : shrOut a = decide (a.toNat % 2 = 1) :=
  Nat.testBit_zero a.toNat

theorem shlResult_eq_ofNat (a : Byte) : shlResult a = BitVec.ofNat 8 (a.toNat * 2) :=
  BitVec.ofInt_natCast 8 (a.toNat * 2)

/-- Bit 7 is the sign bit of a byte. -/
theorem shlOut_eq (a : Byte) : shlOut a = decide (128 ≤ a.toNat) :=
  BitVec.msb_eq_decide a

end Sys2Proof.Machine

open Sys2Proof Sys2Proof.Machine

/-- Settles O33: narrowing the exact sum is the wrapping sum, and the flag is the exact sum's carry. -/
theorem addWritesCarry : Obligations.AddWritesCarry :=
  ⟨rowDecodes_addReg, fun x _ s => ⟨_, rfl, s.setRegFlag_advance_setsRegAndFlag x (addResult_eq _ _) rfl⟩⟩

/-- Settles O34: SUB and SUBN are one difference and one comparison, with the operands exchanged. -/
theorem subtractWritesStrictFlag : Obligations.SubtractWritesStrictFlag :=
  ⟨rowDecodes_sub, rowDecodes_subn, fun x _ s =>
    ⟨⟨_, rfl, s.setRegFlag_advance_setsRegAndFlag x (subResult_eq _ _) rfl⟩,
      _, rfl, s.setRegFlag_advance_setsRegAndFlag x (subResult_eq _ _) rfl⟩⟩

/-- Settles O35: half and parity for SHR, double and top bit for SHL. -/
theorem shiftsWriteBitOut : Obligations.ShiftsWriteBitOut :=
  ⟨rowDecodes_shr, rowDecodes_shl, fun x _ s =>
    ⟨⟨_, rfl, s.setRegFlag_advance_setsRegAndFlag x (shrResult_eq_ofNat _) (shrOut_eq _)⟩,
      _, rfl, s.setRegFlag_advance_setsRegAndFlag x (shlResult_eq_ofNat _) (shlOut_eq _)⟩⟩

/-- Settles O31: each of the three is one register write without a flag. -/
theorem loadAddImmediateAndCopy : Obligations.LoadAddImmediateAndCopy :=
  ⟨rowDecodes_ldImm, rowDecodes_addImm, rowDecodes_ldReg,
    fun x _ s => ⟨⟨_, rfl, s.setReg_advance_setsReg x rfl⟩, _, rfl, s.setReg_advance_setsReg x (addResult_eq _ _)⟩,
    fun x _ s => ⟨_, rfl, s.setReg_advance_setsReg x rfl⟩⟩

/-- Settles O32: each of the three is one register write without a flag. -/
theorem bitwiseLogic : Obligations.BitwiseLogic :=
  ⟨rowDecodes_orReg, rowDecodes_andReg, rowDecodes_xorReg, fun x _ s =>
    ⟨⟨_, rfl, s.setReg_advance_setsReg x rfl⟩, ⟨_, rfl, s.setReg_advance_setsReg x rfl⟩,
      _, rfl, s.setReg_advance_setsReg x rfl⟩⟩

/-- Settles O60: the tuple RND leaves is the old one with the masked draw in Vx and `pc` advanced; a mask clears every
bit outside itself. -/
theorem randomWritesTheDrawMasked : Obligations.RandomWritesTheDrawMasked := by
  refine ⟨rowDecodes_rnd, fun r x kk c => ⟨{ c with v := c.v.set x.val (r &&& kk), pc := c.pc + 2#16 }, rfl, ?_⟩⟩
  have hv : (c.v.set x.val (r &&& kk))[x.val] = r &&& kk := Vector.getElem_set_self _
  refine ⟨hv, ?_, fun hkk => ?_, rfl⟩
  · rw [hv, BitVec.and_assoc, BitVec.and_not_self]
    exact BitVec.and_zero
  · rw [hv, hkk, BitVec.and_zero]

end

section
/-! Index register and memory (spec/43_index_memory.md R190 to R196): I as a number, the bytes a store of consecutive
bytes leaves, and from them what the two stores and the load do. -/

namespace Sys2Proof.Machine

/-! ### The index register -/

/-- The sum of ADD_I_VX wraps at 16 bits (R191). -/
theorem indexSum_toNat (i : Word) (v : Byte) : (indexSum i v).toNat = (i.toNat + v.toNat) % 65536 := by
  rw [indexSum, trunc16_toNat]
  omega

/-- The product of LD_F_VX is at most 255 × 5, so narrowing keeps it (R192). -/
theorem fontAddress_toNat (v : Byte) : (fontAddress v).toNat = v.toNat * 5 := by
  rw [fontAddress, trunc16_toNat]
  omega

theorem State.setI_advance_onlyChanges (s : State) (w : Word) : OnlyChanges [.i, .pc] s (s.setI w).advance := by
  simp [onlyChanges_iff]

/-! ### The bytes of a store -/

/-- The k-th of the bytes stored from `a` up is at `a + k` (R65). -/
theorem memGet_memStore_of_lt {m : Memory} {a k : Nat} {bs : List Byte} (hwf : memoryWf m = true)
    (hrange : a + bs.length ≤ Config.memSize) (hk : k < bs.length) :
    memGet (memStore m a bs) (a + k) = bs.getD k 0#8 := by
  rw [memGet_memStore bs _ hwf hrange, if_pos ⟨Nat.le_add_right a k, Nat.add_lt_add_left hk a⟩,
    Nat.add_sub_cancel_left]

/-- A store leaves the bytes below and above its range as they were (R72). -/
theorem memGet_memStore_of_outside {m : Memory} {a c : Nat} {bs : List Byte} (hwf : memoryWf m = true)
    (hrange : a + bs.length ≤ Config.memSize) (hc : c < a ∨ a + bs.length ≤ c) :
    memGet (memStore m a bs) c = memGet m c := by
  rw [memGet_memStore bs c hwf hrange, if_neg (by omega)]

/-- The decimal digits as numbers (R193): each is below 256, so its byte holds it. -/
theorem bcdDigits_map_toNat (v : Byte) :
    (bcdDigits v).map BitVec.toNat = [v.toNat / 100, v.toNat / 10 % 10, v.toNat % 10] := by
  simp only [bcdDigits, List.map_cons, List.map_nil, BitVec.toNat_ofNat, List.cons.injEq, and_true]
  omega

/-- The digits of a byte, stored from `a` up: hundreds, tens and ones (R193). -/
theorem memGet_memStore_bcdDigits {m : Memory} {a k : Nat} (v : Byte) (hwf : memoryWf m = true) (hrange : a + 2 < 4096)
    (hk : k < 3) :
    (memGet (memStore m a (bcdDigits v)) (a + k)).toNat =
      [v.toNat / 100, v.toNat / 10 % 10, v.toNat % 10].getD k 0 := by
  rw [memGet_memStore_of_lt hwf hrange hk, ← bcdDigits_map_toNat]
  exact (List.getD_map (bcdDigits v) 0#8 BitVec.toNat).symm

/-! ### The instructions when their bytes lie in memory -/

/-- LD_B_VX completes when its three bytes lie in memory (R193). -/
theorem exec_ldBVx_pass {x : Reg} {s : State} (h : s.addrI + 2 < 4096) :
    exec (.ldBVx x) s = .next (s.setMem (memStore s.mem s.addrI (bcdDigits (s.reg x)))).advance :=
  withRange_pass _ (.inl h)

/-- LD_VX_MEM completes when its bytes lie in memory (R195). -/
theorem exec_ldVxMem_pass {x : Reg} {s : State} (h : s.addrI + x.val < 4096) :
    exec (.ldVxMem x) s = .next (s.setRegsFrom0 (memLoad s.mem s.addrI (x.val + 1))).advance :=
  withRange_pass _ (.inl h)

/-- Register `r` of V0 to Vx is loaded from `I + r`; the registers above Vx keep their value (R195). -/
theorem State.setRegsFrom0_memLoad_reg (s : State) (x r : Reg) :
    (s.setRegsFrom0 (memLoad s.mem s.addrI (x.val + 1))).reg r =
      if r ≤ x then s.byte (s.addrI + r.val) else s.reg r := by
  rw [State.setRegsFrom0_reg, memLoad_length, memLoad_getD]
  by_cases hr : r ≤ x
  · have hlt : r.val < x.val + 1 := Nat.lt_succ_of_le hr
    rw [if_pos hlt, if_pos hlt, if_pos hr, State.byte]
  · have hge : ¬ r.val < x.val + 1 := mt Nat.le_of_lt_succ hr
    rw [if_neg hge, if_neg hr]

end Sys2Proof.Machine

open Sys2Proof Sys2Proof.Machine

/-- Settles O37: each of the three is one write of I, of the number its rule gives. -/
theorem indexRegisterWrites : Obligations.IndexRegisterWrites :=
  ⟨rowDecodes_ldI, rowDecodes_addIVx, rowDecodes_ldFVx,
    fun nnn s => ⟨_, rfl, zextAddr_toNat nnn, rfl, s.setI_advance_onlyChanges _⟩,
    fun _ s => ⟨⟨_, rfl, indexSum_toNat _ _, rfl, s.setI_advance_onlyChanges _⟩,
      _, rfl, fontAddress_toNat _, rfl, s.setI_advance_onlyChanges _⟩⟩

/-- Settles O38: the three bytes of the store are the digits, and the range check fails beyond memory. -/
theorem decimalDigitsAreStored : Obligations.DecimalDigitsAreStored := by
  refine ⟨rowDecodes_ldBVx, fun x s hwf hrange => ?_,
    fun x s h => withRange_fail _ (Nat.succ_pos 2) (Nat.lt_succ_of_le h)⟩
  have hexec := exec_ldBVx_pass (x := x) hrange
  exact ⟨_, hexec, memGet_memStore_bcdDigits _ hwf hrange (k := 0) (by decide),
    memGet_memStore_bcdDigits _ hwf hrange (k := 1) (by decide),
    memGet_memStore_bcdDigits _ hwf hrange (k := 2) (by decide),
    fun a ha => memGet_memStore_of_outside hwf hrange ha, rfl, exec_onlyChanges hexec⟩

/-- Settles O39: byte `I + r` of the store is Vr, and the range check fails beyond memory. -/
theorem registersAreStored : Obligations.RegistersAreStored := by
  refine ⟨rowDecodes_ldMemVx, fun x s hwf hrange => ?_,
    fun x s h => withRange_fail _ (Nat.succ_pos x.val) (Nat.lt_succ_of_le h)⟩
  have hexec := exec_ldMemVx_pass hrange
  have hlen : s.addrI + (s.regsUpTo x).length = s.addrI + x.val + 1 := by rw [State.regsUpTo_length, Nat.add_assoc]
  exact ⟨_, hexec, fun r hr => memGet_memStore_regsUpTo hwf hrange hr,
    fun a ha => memGet_memStore_of_outside hwf (hlen.trans_le hrange) (ha.imp_right hlen.trans_le), rfl,
    exec_onlyChanges hexec⟩

/-- Settles O40, by the registers a load of consecutive bytes writes. -/
theorem registersAreLoaded : Obligations.RegistersAreLoaded := by
  refine ⟨rowDecodes_ldVxMem, fun x s hrange => ?_,
    fun x s h => withRange_fail _ (Nat.succ_pos x.val) (Nat.lt_succ_of_le h)⟩
  have hexec := exec_ldVxMem_pass hrange
  exact ⟨_, hexec, fun r hr => (s.setRegsFrom0_memLoad_reg x r).trans (if_pos hr),
    fun r hr => (s.setRegsFrom0_memLoad_reg x r).trans (if_neg (not_le_of_gt hr)), rfl, exec_onlyChanges hexec⟩

/-- Settles O41: the load reads register `r` from `I + r`, where the store put it. -/
theorem storedRegistersLoadBack : Obligations.StoredRegistersLoadBack := by
  intro x s t u hwf hstore hi hbytes
  obtain ⟨hr, ⟨⟩⟩ := withRange_eq_next.1 hstore
  have hrange : s.addrI + x.val < 4096 := hr.resolve_right (Nat.succ_ne_zero _)
  have haddr : u.addrI = s.addrI := congrArg BitVec.toNat hi
  obtain ⟨-, hpass, -⟩ := registersAreLoaded
  obtain ⟨w, hexec, hload, hkeep, -⟩ := hpass x u (haddr ▸ hrange)
  refine ⟨w, hexec, fun r hr => ?_, hkeep⟩
  calc w.reg r = u.byte (s.addrI + r.val) := by rw [hload r hr, haddr]
    _ = memGet (memStore s.mem s.addrI (s.regsUpTo x)) (s.addrI + r.val) := hbytes _
    _ = s.reg r := memGet_memStore_regsUpTo hwf hrange hr

end

section
/-! Display (spec/44_display.md R210 to R216): the sprite primitive bit by bit and draw after draw, the state DRW leaves,
and the framebuffer as the host reads it. -/

namespace Sys2Proof.Machine

/-! ### One sprite bit and another (R215 (a)) -/

/-- A sprite bit changes no pixel that another bit falls on. -/
theorem drawBit_pixel_of_other {r r' c c' : Nat} (x0 y0 : Nat) (bit : Bool) (d : Drawing) (hr : r < 32) (hr' : r' < 32)
    (hc : c < 64) (hc' : c' < 64) (hne : ¬ (r = r' ∧ c = c')) :
    getPixel (drawBit x0 y0 r c bit d).1 (Fin.ofNat 64 (x0 + c')) (Fin.ofNat 32 (y0 + r')) =
      getPixel d.1 (Fin.ofNat 64 (x0 + c')) (Fin.ofNat 32 (y0 + r')) := by
  have hother : ¬ (c' = c ∧ r' = r) := fun ⟨h, h'⟩ => hne ⟨h'.symm, h.symm⟩
  rw [drawBit_pixel _ _ _ _ _ _ _ _ hc hr, spriteCol_ofNat x0 c' hc', spriteRow_ofNat y0 r' hr',
    decide_eq_false hother, Bool.false_and, Bool.xor_false]

/-- Two sprite bits on different pixels may be drawn in either order: neither sees what the other did. -/
theorem drawBit_comm {r r' c c' : Nat} (x0 y0 : Nat) (bit bit' : Bool) (d : Drawing) (hr : r < 32) (hr' : r' < 32)
    (hc : c < 64) (hc' : c' < 64) (hne : ¬ (r = r' ∧ c = c')) :
    drawBit x0 y0 r c bit (drawBit x0 y0 r' c' bit' d) = drawBit x0 y0 r' c' bit' (drawBit x0 y0 r c bit d) := by
  have hne' : ¬ (r' = r ∧ c' = c) := fun ⟨h, h'⟩ => hne ⟨h.symm, h'.symm⟩
  apply Prod.ext
  · refine framebuffer_ext fun px py => ?_
    simp only [drawBit_pixel _ _ _ _ _ _ px py hc hr, drawBit_pixel _ _ _ _ _ _ px py hc' hr']
    exact Bool.xor_right_comm _ _ _
  · rw [drawBit_collision, drawBit_collision, drawBit_collision, drawBit_collision,
      drawBit_pixel_of_other x0 y0 bit d hr hr' hc hc' hne, drawBit_pixel_of_other x0 y0 bit' d hr' hr hc' hc hne']
    exact Bool.or_right_comm _ _ _

/-! ### The 1 bits of a sprite -/

/-- A sprite has a 1 bit on some pixel exactly when one of its rows is not 0: no row falls beyond the 32 of the
framebuffer. -/
theorem exists_spriteBit_iff (x0 y0 : Nat) {rows : List Byte} (hlen : rows.length ≤ 32) :
    (∃ px py, spriteBit x0 y0 rows px py = true) ↔ ∃ row ∈ rows, row ≠ 0#8 := by
  constructor
  · rintro ⟨px, py, hbit⟩
    obtain ⟨-, hbit⟩ := Bool.and_eq_true_iff.1 hbit
    have hrow : rows.getD (spriteRow y0 py) 0#8 ≠ 0#8 := by
      intro hzero
      rw [hzero, BitVec.getLsbD_zero] at hbit
      cases hbit
    have hr : spriteRow y0 py < rows.length := by
      by_contra hge
      exact hrow (List.getD_eq_default _ _ (not_lt.1 hge))
    rw [List.getD_eq_getElem _ _ hr] at hrow
    exact ⟨_, List.getElem_mem hr, hrow⟩
  · rintro ⟨row, hmem, hrow⟩
    obtain ⟨r, hr, rfl⟩ := List.getElem_of_mem hmem
    obtain ⟨j, hj, hbit⟩ : ∃ j < 8, rows[r].getLsbD j = true := by
      by_contra hnone
      push Not at hnone
      exact hrow (BitVec.eq_of_getLsbD_eq fun j hj => by
        rw [BitVec.getLsbD_zero, Bool.eq_false_of_not_eq_true (hnone j hj)])
    refine ⟨Fin.ofNat 64 (x0 + (7 - j)), Fin.ofNat 32 (y0 + r), ?_⟩
    have hcol : 7 - (7 - j) = j := by omega
    rw [spriteBit, spriteCol_ofNat x0 _ (by omega), spriteRow_ofNat y0 r (by omega), List.getD_eq_getElem _ _ hr, hcol,
      hbit, decide_eq_true (by omega), Bool.and_self]

/-! ### When a draw collides (R215 (b), (c), (d)) -/

section
variable (f : Framebuffer) (x0 y0 : Byte) {rows : List Byte} (hlen : rows.length ≤ 32)
include hlen

theorem drawSprite_noCollision_iff :
    (drawSprite f x0 y0 rows).2 = false ↔
      ∀ px py, getPixel f px py = true → spriteBit x0.toNat y0.toNat rows px py = false := by
  rw [← Bool.not_eq_true, drawSprite_collision f x0 y0 rows hlen]
  simp only [not_exists, not_and]
  exact forall₂_congr fun px py => imp_not_comm.trans (by rw [Bool.not_eq_true])

/-- The pixels that collide are those that go from lit to unlit. -/
theorem drawSprite_collision_iff_unlit :
    (drawSprite f x0 y0 rows).2 = true ↔
      ∃ px py, getPixel f px py = true ∧ getPixel (drawSprite f x0 y0 rows).1 px py = false := by
  rw [drawSprite_collision f x0 y0 rows hlen]
  refine exists_congr fun px => exists_congr fun py => ?_
  rw [drawSprite_pixel f x0 y0 rows hlen]
  cases getPixel f px py <;> simp

/-- A second draw inverts the same pixels back. -/
theorem drawSprite_twice_pixels : (drawSprite (drawSprite f x0 y0 rows).1 x0 y0 rows).1 = f :=
  framebuffer_ext fun px py => by
    rw [drawSprite_pixel _ x0 y0 rows hlen, drawSprite_pixel f x0 y0 rows hlen, Bool.xor_assoc, Bool.xor_self,
      Bool.xor_false]

/-- A second draw collides where the first lit a pixel (log 12). -/
theorem drawSprite_twice_collision_iff :
    (drawSprite (drawSprite f x0 y0 rows).1 x0 y0 rows).2 = true ↔
      ∃ px py, getPixel f px py = false ∧ spriteBit x0.toNat y0.toNat rows px py = true := by
  rw [drawSprite_collision _ x0 y0 rows hlen]
  refine exists_congr fun px => exists_congr fun py => ?_
  rw [drawSprite_pixel f x0 y0 rows hlen]
  cases spriteBit x0.toNat y0.toNat rows px py <;> simp

/-- After a draw that reports no collision, the pixels it lit are all those the sprite has a 1 bit on. -/
theorem drawSprite_twice_collision_iff_of_noCollision (hfirst : (drawSprite f x0 y0 rows).2 = false) :
    (drawSprite (drawSprite f x0 y0 rows).1 x0 y0 rows).2 = true ↔ ∃ row ∈ rows, row ≠ 0#8 := by
  rw [drawSprite_twice_collision_iff f x0 y0 hlen, ← exists_spriteBit_iff x0.toNat y0.toNat hlen]
  refine exists_congr fun px => exists_congr fun py => and_iff_right_of_imp fun hbit => ?_
  by_contra hlit
  have hunset := (drawSprite_noCollision_iff f x0 y0 hlen).1 hfirst px py (Bool.eq_true_of_not_eq_false hlit)
  exact Bool.false_ne_true (hunset.symm.trans hbit)

theorem drawSprite_clear_noCollision : (drawSprite Framebuffer.clear x0 y0 rows).2 = false :=
  (drawSprite_noCollision_iff _ x0 y0 hlen).2 fun px py hlit =>
    absurd hlit (by rw [getPixel_clear]; exact Bool.false_ne_true)

end

/-! ### DRW (R214) -/

/-- The bytes DRW reads are the sprite "memory[I..I+n]" (R9). -/
theorem memLoad_eq_spriteRows (s : State) (n : Nat) : memLoad s.mem s.addrI n = spriteRows s n := by
  refine List.ext_getElem (by simp [spriteRows]) fun k hk hk' => ?_
  have hlt : k < n := memLoad_length s.mem s.addrI n ▸ hk
  rw [← List.getD_eq_getElem _ 0#8 hk, memLoad_getD, if_pos hlt]
  simp [spriteRows, State.byte, State.addrI]

theorem spriteRows_length (s : State) (n : Nat) : (spriteRows s n).length = n := by
  simp [spriteRows]

/-- DRW completes when its sprite lies in memory or has no rows (R214). -/
theorem exec_drw_pass {x y : Reg} {n : Nat} {s : State} (h : s.addrI + n ≤ 4096 ∨ n = 0) :
    exec (.drw x y n) s = .next (s.afterDraw (drawSprite s.fb (s.reg x) (s.reg y) (spriteRows s n))).advance := by
  rw [← memLoad_eq_spriteRows]
  exact withRange_pass _ h

/-! ### The framebuffer as the host reads it (R210, R216) -/

theorem pixels_eq_flatten (s : State) : pixels s = s.fb.flatten.toList := by
  simp only [pixels, Vector.flatten, Vector.toList, Array.toList_flatten, Array.toList_map, List.map_map]
  rfl

theorem pixels_length (s : State) : (pixels s).length = 2048 := by
  rw [pixels_eq_flatten, Vector.length_toList]

/-- Row-major order: 64 pixels to a row. -/
theorem pixels_getElem? (s : State) (x : Fin 64) (y : Fin 32) :
    (pixels s)[y.val * 64 + x.val]? = some (getPixel s.fb x y) := by
  have hrow : (y.val * 64 + x.val) / 64 = y.val := by omega
  have hcol : (y.val * 64 + x.val) % 64 = x.val := by omega
  rw [pixels_eq_flatten, List.getElem?_eq_getElem (by rw [Vector.length_toList]; omega), Vector.getElem_toList,
    Vector.getElem_flatten]
  simp only [hrow, hcol, getPixel]

theorem hostCall_pixel (s : State) (x : Fin 64) (y : Fin 32) :
    hostCall (.pixel x.val y.val) s = .next (s, .bit (getPixel s.fb x y)) := by
  simp only [hostCall, pixel, dif_pos (And.intro x.isLt y.isLt)]

theorem hostCall_pixel_of_outside (s : State) {x y : Nat} (h : ¬ (x < 64 ∧ y < 32)) :
    hostCall (.pixel x y) s = .refused (.pixelOutOfRange x y) := by
  simp only [hostCall, pixel, dif_neg h]

/-- The framebuffer is in the "written by" column of CLS and DRW only. -/
theorem eq_cls_or_drw_of_fb_mem_mayChange {i : Instr} (h : Part.fb ∈ mayChange i) :
    i = .cls ∨ ∃ x y n, i = .drw x y n := by
  cases i with
  | cls => exact .inl rfl
  | drw x y n => exact .inr ⟨x, y, n, rfl⟩
  | _ => simp [mayChange] at h

end Sys2Proof.Machine

open Sys2Proof Sys2Proof.Machine

/-- Settles O44: the bytes read are the sprite's rows, the draw is the picture of R212, and VF is its collision. -/
theorem drawXorsSpriteIntoDisplay : Obligations.DrawXorsSpriteIntoDisplay := by
  refine ⟨rowDecodes_drw, fun x y n s hn hrange => ?_, fun x y n s hpos h => withRange_fail _ hpos h⟩
  have hexec := exec_drw_pass (x := x) (y := y) hrange.symm
  have hlen : (spriteRows s n).length ≤ 32 := by rw [spriteRows_length]; omega
  refine ⟨_, hexec, fun px py => drawSprite_pixel s.fb (s.reg x) (s.reg y) _ hlen px py, fun hlit => ?_,
    fun hunset => ?_, fun r hr => exec_reg_of_not_writesReg hexec hr, rfl, exec_onlyChanges hexec⟩
  · obtain ⟨px, py, hpixel, hbit⟩ := hlit
    have hcollide := (drawSprite_collision s.fb (s.reg x) (s.reg y) _ hlen).2 ⟨px, py, hbit, hpixel⟩
    exact (State.afterDraw_reg_VF s _).trans (congrArg flagByte hcollide)
  · have hclear := (drawSprite_noCollision_iff s.fb (s.reg x) (s.reg y) hlen).2 hunset
    exact (State.afterDraw_reg_VF s _).trans (congrArg flagByte hclear)

/-- Settles O45: 8 columns and 15 rows do not wrap onto themselves, and a draw is an XOR with the sprite's picture. -/
theorem spriteWriterProperties : Obligations.SpriteWriterProperties := by
  have hrows : ∀ {rows : List Byte}, rows.length ≤ 15 → rows.length ≤ 32 := fun h => h.trans (by decide)
  refine ⟨fun x0 y0 r r' c c' hr hr' hc hc' hx hy => ⟨by omega, by omega⟩,
    fun x0 y0 r r' c c' b b' d hr hr' hc hc' hne => ?_,
    fun f x0 y0 rows h => ⟨drawSprite_twice_pixels f x0 y0 (hrows h), drawSprite_twice_collision_iff f x0 y0 (hrows h),
      drawSprite_twice_collision_iff_of_noCollision f x0 y0 (hrows h)⟩,
    fun x0 y0 rows h => drawSprite_clear_noCollision x0 y0 (hrows h),
    fun f x0 y0 rows h => drawSprite_collision_iff_unlit f x0 y0 (hrows h)⟩
  have hr32 : r < 32 ∧ r' < 32 := by omega
  have hc64 : c < 64 ∧ c' < 64 := by omega
  exact ⟨drawBit_pixel_of_other x0 y0 b d hr32.1 hr32.2 hc64.1 hc64.2 hne,
    drawBit_comm x0 y0 b b' d hr32.1 hr32.2 hc64.1 hc64.2 hne⟩

/-- Settles O54: the rows one after the other are the row-major order, and an instruction that changes a pixel has the
framebuffer among the parts it may change. -/
theorem hostReadsFramebufferRowMajor : Obligations.HostReadsFramebufferRowMajor :=
  ⟨fun s => ⟨pixels_length s, rfl⟩, fun s x y => ⟨pixels_getElem? s x y, hostCall_pixel s x y⟩,
    fun s _ _ h => hostCall_pixel_of_outside s h,
    fun _ _ _ x y hexec hchange => eq_cls_or_drw_of_fb_mem_mayChange <| by
      by_contra hfb
      exact hchange (exec_onlyChanges hexec .fb hfb x y)⟩

/-- Settles O43: the framebuffer CLS leaves is the clear one. -/
theorem clearUnlitsEveryPixel : Obligations.ClearUnlitsEveryPixel :=
  ⟨rowDecodes_cls, fun _ => ⟨_, rfl, getPixel_clear, rfl, exec_onlyChanges (i := .cls) rfl⟩⟩

end

section
/-! Keypad (spec/45_keypad.md R230 to R235): what the key skips do with a byte that names a key and with one that names
none, what the host's key events leave, and who moves the latch. -/

namespace Sys2Proof.Machine

/-! ### Key skips (R232, R233) -/

theorem withKey_of_toNat_eq {s : State} {x : Reg} {key : Fin 16} (k : Fin 16 → Result)
    (h : (s.reg x).toNat = key.val) : withKey s x k = k key := by
  rcases withKey_cases s x k with ⟨hlt, he⟩ | ⟨hgt, -⟩
  · exact he.trans (congrArg k (Fin.ext h))
  · omega

theorem withKey_of_gt {s : State} {x : Reg} (k : Fin 16 → Result) (h : 15 < (s.reg x).toNat) :
    withKey s x k = .fault (.invalidKey (s.reg x) s.pc) := by
  rcases withKey_cases s x k with ⟨hlt, -⟩ | ⟨-, he⟩
  · omega
  · exact he

/-! ### Key events (R230, R231) -/

theorem keyPressed_eq_next {k : Nat} {s t : State} :
    keyPressed k s = .next t ↔ ∃ h : k < 16, s.pressKey ⟨k, h⟩ = t := by
  by_cases h : k < 16 <;> simp [keyPressed, h]

theorem keyReleased_eq_next {k : Nat} {s t : State} :
    keyReleased k s = .next t ↔ ∃ h : k < 16, s.releaseKey ⟨k, h⟩ = t := by
  by_cases h : k < 16 <;> simp [keyReleased, h]

theorem keyPressed_of_outside {k : Nat} (s : State) (h : 16 ≤ k) :
    keyPressed k s = .refused (.keyIndexOutOfRange k) :=
  dif_neg (Nat.not_lt.2 h)

theorem keyReleased_of_outside {k : Nat} (s : State) (h : 16 ≤ k) :
    keyReleased k s = .refused (.keyIndexOutOfRange k) :=
  dif_neg (Nat.not_lt.2 h)

/-- Only a wait in progress is resolved; an earlier resolution stands (R231). -/
theorem Latch.onRelease_of_ne_waiting {l : Latch} (h : l ≠ .waiting) (k : Fin 16) : l.onRelease k = l := by
  cases l with
  | idle | resolved => rfl
  | waiting => exact absurd rfl h

theorem State.pressKey_onlyChanges (s : State) (k : Fin 16) : OnlyChanges [.keys] s (s.pressKey k) := by
  simp [onlyChanges_iff]

theorem State.releaseKey_onlyChanges (s : State) (k : Fin 16) :
    OnlyChanges [.keys, .latch] s (s.releaseKey k) := by
  simp [onlyChanges_iff]

theorem State.releaseKey_latch_of_waiting {s : State} (h : s.latch = .waiting) (k : Fin 16) :
    (s.releaseKey k).latch = .resolved k :=
  congrArg (Latch.onRelease · k) h

theorem State.releaseKey_latch_of_ne_waiting {s : State} (h : s.latch ≠ .waiting) (k : Fin 16) :
    (s.releaseKey k).latch = s.latch :=
  Latch.onRelease_of_ne_waiting h k

/-! ### The key wait (R234, R235) -/

theorem exec_ldVxK_of_idle {s : State} (x : Reg) (h : s.latch = .idle) :
    exec (.ldVxK x) s = .next (s.setLatch .waiting) :=
  execLdVxK_eq_next.2 (.inl ⟨h, rfl⟩)

theorem exec_ldVxK_of_waiting {s : State} (x : Reg) (h : s.latch = .waiting) : exec (.ldVxK x) s = .next s :=
  execLdVxK_eq_next.2 (.inr (.inl ⟨h, rfl⟩))

theorem exec_ldVxK_of_resolved {s : State} (x : Reg) {k : Fin 16} (h : s.latch = .resolved k) :
    exec (.ldVxK x) s = .next ((s.setReg x (zextKey k)).setLatch .idle).advance :=
  execLdVxK_eq_next.2 (.inr (.inr ⟨k, h, rfl⟩))

/-- Of the three answers of LD_VX_K, the one from Waiting leaves the latch; the others move it on (R235). -/
theorem exec_ldVxK_latch {x : Reg} {s t : State} (h : exec (.ldVxK x) s = .next t) (hchange : t.latch ≠ s.latch) :
    (s.latch = .idle ∧ t.latch = .waiting) ∨ ((∃ k, s.latch = .resolved k) ∧ t.latch = .idle) := by
  rcases execLdVxK_eq_next.1 h with ⟨hidle, rfl⟩ | ⟨-, rfl⟩ | ⟨k, hresolved, rfl⟩
  · exact .inl ⟨hidle, rfl⟩
  · exact absurd rfl hchange
  · exact .inr ⟨⟨k, hresolved⟩, rfl⟩

end Sys2Proof.Machine

open Sys2Proof Sys2Proof.Machine

/-- Settles O46, by whether Vx names a key; the test of each row decides its condition on the level. -/
theorem keySkips : Obligations.KeySkips :=
  ⟨rowDecodes_skp, rowDecodes_sknp,
    fun _ s k hk => ⟨⟨_, withKey_of_toNat_eq _ hk, s.skipIf_skips Iff.rfl⟩,
      _, withKey_of_toNat_eq _ hk, s.skipIf_skips (iff_of_eq (Bool.not_eq_true' (s.key k)))⟩,
    fun _ _ h => ⟨withKey_of_gt _ h, withKey_of_gt _ h⟩⟩

/-- Settles O47, by the three states of the latch. -/
theorem keyWaitPollsTheLatch : Obligations.KeyWaitPollsTheLatch := by
  refine ⟨rowDecodes_ldVxK, fun x s hidle => ⟨_, exec_ldVxK_of_idle x hidle, rfl, ?_⟩,
    fun x s hwaiting => ⟨s, exec_ldVxK_of_waiting x hwaiting, ?_⟩, fun x s k hresolved => ?_⟩
  · simp [onlyChanges_iff]
  · simp [onlyChanges_iff]
  · have hexec := exec_ldVxK_of_resolved x hresolved
    exact ⟨_, hexec, by simp [zextKey_toNat], fun r hr => by simp [hr], rfl, rfl, exec_onlyChanges hexec⟩

/-- Settles O48: an event writes the level of its own key, and a release moves the latch only out of Waiting. -/
theorem keyEventsSetLevelsAndLatch : Obligations.KeyEventsSetLevelsAndLatch :=
  ⟨fun s k =>
    ⟨⟨_, keyPressed_eq_next.2 ⟨k.isLt, rfl⟩, by simp, fun j hj => by simp [hj], s.pressKey_onlyChanges k⟩,
      _, keyReleased_eq_next.2 ⟨k.isLt, rfl⟩, by simp, fun j hj => by simp [hj],
      fun h => s.releaseKey_latch_of_waiting h k, fun h => s.releaseKey_latch_of_ne_waiting h k,
      s.releaseKey_onlyChanges k⟩,
    fun s _ h => ⟨keyPressed_of_outside s h, keyReleased_of_outside s h⟩⟩

/-- Settles O49: every other instruction and a press carry the latch over, and a release moves it only out of
Waiting. -/
theorem latchTransitions : Obligations.LatchTransitions := by
  refine ⟨fun i s t hexec hchange => ?_, fun s t k hpress => ?_, fun s t k hrelease hchange => ?_⟩
  · have hi : ∃ x, i = .ldVxK x := by
      by_contra hother
      exact hchange (exec_latch (not_exists.1 hother) hexec)
    obtain ⟨x, rfl⟩ := hi
    exact ⟨⟨x, rfl⟩, exec_ldVxK_latch hexec hchange⟩
  · obtain ⟨_, rfl⟩ := keyPressed_eq_next.1 hpress
    rfl
  · obtain ⟨_, rfl⟩ := keyReleased_eq_next.1 hrelease
    have hwaiting : s.latch = .waiting := by
      by_contra hne
      exact hchange (s.releaseKey_latch_of_ne_waiting hne k)
    exact ⟨hwaiting, s.releaseKey_latch_of_waiting hwaiting k⟩

end

section
/-! Timers (spec/46_timers.md R250 to R256): which instructions write a timer, and what a timer reads after a number of
steps that leave it to the timer phase. -/

namespace Sys2Proof.Machine

/-! ### The timer instructions (R251, R252, R253) -/

theorem step_of_ldVxDt {s : State} {x : Reg} (h : fetchInstr s = .ok (.ldVxDt x)) :
    step s = .next (s.tick.setReg x (decTimer s.dt)).advance :=
  step_of_fetchInstr h

theorem step_of_ldDtVx {s : State} {x : Reg} (h : fetchInstr s = .ok (.ldDtVx x)) :
    step s = .next (s.tick.setDt (s.reg x)).advance :=
  step_of_fetchInstr h

theorem step_of_ldStVx {s : State} {x : Reg} (h : fetchInstr s = .ok (.ldStVx x)) :
    step s = .next (s.tick.setSt (s.reg x)).advance :=
  step_of_fetchInstr h

/-! ### Counting steps (R254) -/

theorem dt_notMem_mayChange {i : Instr} (h : writesDt i = false) : Part.dt ∉ mayChange i := by
  cases i with
  | ldDtVx => cases h
  | _ => simp [mayChange]

theorem st_notMem_mayChange {i : Instr} (h : writesSt i = false) : Part.st ∉ mayChange i := by
  cases i with
  | ldStVx => cases h
  | _ => simp [mayChange]

/-- One more step without `bad`: an instruction of another kind that completes after the timer phase, and the rest from
there. -/
theorem stepsWithout_succ {bad : Instr → Bool} {k : Nat} {s u : State} (h : stepsWithout bad (k + 1) s = some u) :
    ∃ i t, bad i = false ∧ exec i s.tick = .next t ∧ stepsWithout bad k t = some u := by
  rw [stepsWithout] at h
  split at h
  case h_1 => cases h
  case h_2 i _ =>
    split at h
    case isTrue => cases h
    case isFalse hbad =>
      split at h
      case h_1 t hexec => exact ⟨i, t, Bool.eq_false_of_not_eq_true hbad, hexec, h⟩
      all_goals cases h

/-- A timer that only the timer phase and the instructions `bad` write goes down by one a step, not below 0. -/
theorem timer_toNat_of_stepsWithout {timer : State → Byte} {bad : Instr → Bool}
    (htick : ∀ s : State, timer s.tick = decTimer (timer s))
    (hexec : ∀ {i : Instr} {s t : State}, bad i = false → exec i s = .next t → timer t = timer s)
    {k : Nat} {s u : State} (h : stepsWithout bad k s = some u) : (timer u).toNat = (timer s).toNat - k := by
  induction k generalizing s with
  | zero =>
    cases h
    rfl
  | succ k ih =>
    obtain ⟨i, t, hbad, hnext, hrest⟩ := stepsWithout_succ h
    have hstep : (timer t).toNat = (timer s).toNat - 1 := by
      rw [hexec hbad hnext, htick, decTimer_toNat]
    rw [ih hrest, hstep, Nat.sub_sub, Nat.add_comm]

theorem dt_toNat_of_stepsWithout {k : Nat} {s u : State} (h : stepsWithout writesDt k s = some u) :
    u.dt.toNat = s.dt.toNat - k :=
  timer_toNat_of_stepsWithout State.tick_dt
    (fun hbad hnext => exec_onlyChanges hnext .dt (dt_notMem_mayChange hbad)) h

theorem st_toNat_of_stepsWithout {k : Nat} {s u : State} (h : stepsWithout writesSt k s = some u) :
    u.st.toNat = s.st.toNat - k :=
  timer_toNat_of_stepsWithout State.tick_st
    (fun hbad hnext => exec_onlyChanges hnext .st (st_notMem_mayChange hbad)) h

end Sys2Proof.Machine

open Sys2Proof Sys2Proof.Machine

/-- Settles O51: each instruction is one write and the advance, and its step runs it on the state the timer phase
leaves. -/
theorem timerInstructions : Obligations.TimerInstructions := by
  refine ⟨rowDecodes_ldVxDt, rowDecodes_ldDtVx, rowDecodes_ldStVx, fun x s => ⟨?_, ?_, ?_⟩, fun x s hf => ?_,
    fun x s hf => ⟨_, step_of_ldDtVx hf, rfl⟩, fun x s hf => ⟨_, step_of_ldStVx hf, rfl⟩⟩
  · exact ⟨_, rfl, s.setReg_advance_setsReg x rfl⟩
  · exact ⟨_, rfl, rfl, rfl, exec_onlyChanges (i := .ldDtVx x) rfl⟩
  · exact ⟨_, rfl, rfl, rfl, exec_onlyChanges (i := .ldStVx x) rfl⟩
  · exact ⟨_, step_of_ldVxDt hf, by simp [decTimer_toNat], decTimer_toNat s.dt⟩

/-- Settles O52: the write leaves the register's value in the timer, and the later steps count it down. -/
theorem timersCountSteps : Obligations.TimersCountSteps := by
  refine ⟨fun x k s t u hf hs hk => ?_, fun x k s t u hf hs hk => ?_⟩
  · cases (step_of_ldDtVx hf).symm.trans hs
    exact dt_toNat_of_stepsWithout hk
  · cases (step_of_ldStVx hf).symm.trans hs
    exact st_toNat_of_stepsWithout hk

/-- Settles O53: the output is the test of ST itself. -/
theorem soundActiveWhileTimerRuns : Obligations.SoundActiveWhileTimerRuns :=
  fun _ => ⟨decide_eq_true_iff, rfl⟩

end

section
/-! Errors (spec/60_exceptions.md R270 to R275): the error of an outcome, which the shared operations decide, so that an
instruction's error is its row of the table and reads neither the keys nor the latch; and a run after an error. -/

namespace Sys2Proof.Machine

/-! ### The error of an outcome -/

/-- The error an outcome reports, if it reports one. -/
def faultOf (r : Result) : Option Fault :=
  match r with
  | .next _ => none
  | .fault f => some f
  | .refused _ => none

@[simp] theorem faultOf_next (t : State) : faultOf (.next t) = none := rfl
@[simp] theorem faultOf_fault (f : Fault) : faultOf (.fault f) = some f := rfl

theorem faultOf_eq_some {r : Result} {f : Fault} : faultOf r = some f ↔ r = .fault f := by
  cases r <;> simp [faultOf]

/-- The range check decides the error of an access, in the form R271 has it. -/
theorem faultOf_withRange (s t : State) (a n : Nat) :
    faultOf (withRange s a n (.next t)) =
      if 0 < n ∧ 4096 ≤ a + n - 1 then some (.addressError (max a 4096) s.pc) else none := by
  rcases withRange_cases s a n (.next t) with ⟨h, he⟩ | ⟨h, he⟩
  · rw [he, if_neg (by omega), faultOf_next]
  · rw [he, if_pos (by omega), faultOf_fault]

theorem faultOf_withKey (s : State) (x : Reg) (k : Fin 16 → State) :
    faultOf (withKey s x fun key => .next (k key)) =
      if 15 < (s.reg x).toNat then some (.invalidKey (s.reg x) s.pc) else none := by
  rcases withKey_cases s x fun key => .next (k key) with ⟨h, he⟩ | ⟨h, he⟩
  · rw [he, if_neg (by omega), faultOf_next]
  · rw [he, if_pos h, faultOf_fault]

theorem faultOf_pushReturn (s : State) (ret target : Word) :
    faultOf (pushReturn s ret target) =
      if s.sp.toNat = 16 then some (.stackOverflow s.pc)
      else if 16 < s.sp.toNat then some (.stackPointerIllegal s.sp s.pc) else none := by
  rcases pushReturn_cases s ret target with ⟨h, he⟩ | ⟨h, he⟩ | ⟨h, he⟩
  · rw [he, if_neg (by omega), if_neg (by omega), faultOf_next]
  · rw [he, if_pos h, faultOf_fault]
  · rw [he, if_neg (by omega), if_pos h, faultOf_fault]

theorem faultOf_popReturn (s : State) :
    faultOf (popReturn s) =
      if s.sp.toNat = 0 then some (.stackUnderflow s.pc)
      else if 16 < s.sp.toNat then some (.stackPointerIllegal s.sp s.pc) else none := by
  rcases popReturn_cases s with ⟨h, he⟩ | ⟨h, hpos, he⟩ | ⟨h, he⟩
  · rw [he, if_pos h, faultOf_fault]
  · rw [he, if_neg (by omega), if_neg (by omega), faultOf_next]
  · rw [he, if_neg (by omega), if_pos h, faultOf_fault]

theorem faultOf_execLdVxK (x : Reg) (s : State) : faultOf (execLdVxK x s) = none := by
  cases h : s.latch <;> simp [execLdVxK, h]

/-! ### The errors of an instruction and of a step (R271, R272) -/

/-- An instruction's error is its row of the table: the shared operations decide it, and every other arm of the dispatch
completes. -/
theorem faultOf_exec (i : Instr) {s : State} (hsp : s.sp.toNat ≤ 16) : faultOf (exec i s) = raised i s := by
  have hlegal : ¬ 16 < s.sp.toNat := Nat.not_lt.2 hsp
  cases i with
  | ret => exact (faultOf_popReturn s).trans (by simp only [raised, hlegal, if_false])
  | call => exact (faultOf_pushReturn s _ _).trans (by simp only [raised, hlegal, if_false])
  | drw => exact faultOf_withRange s _ _ _
  | ldBVx | ldMemVx | ldVxMem => exact (faultOf_withRange s _ _ _).trans (by simp [raised, State.addrI])
  | skp x | sknp x => exact faultOf_withKey s x _
  | ldVxK x => exact faultOf_execLdVxK x s
  | _ => rfl

/-- Where nothing is fetched, the table has the fetch's error or the decoder's. -/
theorem stepRaised_of_fetchInstr_error {s : State} {f : Fault} (h : fetchInstr s = .error f) :
    stepRaised s = some f := by
  rw [fetchInstr_eq] at h
  unfold stepRaised
  by_cases hpc : s.pc.toNat < 4095
  · rw [if_pos hpc] at h
    rw [if_neg (by omega), if_neg (by omega)]
    cases hd : decode (wordOfBytes (s.byte s.pc.toNat) (s.byte (s.pc.toNat + 1))) with
    | ok => simp [hd] at h
    | error => simpa [hd] using h
  · rw [if_neg hpc] at h
    cases h
    by_cases htop : s.pc.toNat = 4095
    · simp [htop]
    · rw [if_pos (by omega), if_neg htop]

/-- Where an instruction is fetched, the table has that instruction's error. -/
theorem stepRaised_of_fetchInstr {s : State} {i : Instr} (h : fetchInstr s = .ok i) :
    stepRaised s = raised i s.tick := by
  have hpc := fetchInstr_pc h
  rw [fetchInstr_eq, if_pos hpc] at h
  unfold stepRaised
  rw [if_neg (by omega), if_neg (by omega)]
  cases hd : decode (wordOfBytes (s.byte s.pc.toNat) (s.byte (s.pc.toNat + 1))) with
  | ok j =>
    simp only [hd, Except.ok.injEq] at h ⊢
    rw [h]
  | error => simp [hd] at h

/-- A step's error is the table's, in its order. -/
theorem faultOf_step {s : State} (hsp : s.sp.toNat ≤ 16) : faultOf (step s) = stepRaised s := by
  rcases step_cases s with ⟨f, hf, he⟩ | ⟨i, hi, he⟩
  · rw [fetchInstr_tick] at hf
    rw [he, faultOf_fault, stepRaised_of_fetchInstr_error hf]
  · rw [fetchInstr_tick] at hi
    rw [he, faultOf_exec i (s := s.tick) hsp, stepRaised_of_fetchInstr hi]

/-! ### What an error depends on (R275) -/

/-- An instruction's error is decided by the registers, `I`, `pc` and `sp`. -/
theorem faultOf_exec_congr (i : Instr) {s t : State} (hv : ∀ r, t.reg r = s.reg r) (hi : t.i = s.i)
    (hpc : t.pc = s.pc) (hsp : t.sp = s.sp) : faultOf (exec i t) = faultOf (exec i s) := by
  have haddr : t.addrI = s.addrI := congrArg BitVec.toNat hi
  cases i with
  | ret => simp only [exec, execRet, faultOf_popReturn, hpc, hsp]
  | call => simp only [exec, execCall, faultOf_pushReturn, hpc, hsp]
  | drw | ldBVx | ldMemVx | ldVxMem =>
    simp only [exec, execDrw, execLdBVx, execLdMemVx, execLdVxMem, faultOf_withRange, haddr, hpc]
  | skp | sknp => simp only [exec, execSkp, execSknp, faultOf_withKey, hv, hpc]
  | ldVxK x => exact (faultOf_execLdVxK x t).trans (faultOf_execLdVxK x s).symm
  | _ => rfl

/-- A step's error reads neither the keys nor the latch: the fetch reads `pc` and memory. -/
theorem step_fault_of_onlyChanges {s t : State} {f : Fault} (h : OnlyChanges [.keys, .latch] s t)
    (hf : step s = .fault f) : step t = .fault f := by
  have hv : ∀ r, t.reg r = s.reg r := h .v (by decide)
  have hpc : t.pc = s.pc := h .pc (by decide)
  have hfetch : fetchInstr t.tick = fetchInstr s.tick := fetchInstr_congr hpc (h .mem (by decide))
  rcases step_cases s with ⟨g, hg, he⟩ | ⟨i, hi, he⟩
  · rw [step, hfetch, hg, ← hf, he]
  · rw [he, ← faultOf_eq_some] at hf
    rw [step, hfetch, hi, ← faultOf_eq_some, ← hf]
    exact faultOf_exec_congr i (s := s.tick) (t := t.tick) hv (h .i (by decide)) hpc (h .sp (by decide))

/-! ### Frames, one after another -/

theorem Part.same.refl (p : Part) (s : State) : p.same s s := by
  cases p with
  | v | stack | mem | keys => exact fun _ => rfl
  | fb => exact fun _ _ => rfl
  | _ => rfl

theorem Part.same.trans {p : Part} {s t u : State} (h : p.same s t) (h' : p.same t u) : p.same s u := by
  cases p with
  | v | stack | mem | keys => exact fun j => (h' j).trans (h j)
  | fb => exact fun x y => (h' x y).trans (h x y)
  | _ => exact Eq.trans h' h

theorem OnlyChanges.refl (ps : List Part) (s : State) : OnlyChanges ps s s := fun p _ => .refl p s

theorem OnlyChanges.trans {ps : List Part} {s t u : State} (h : OnlyChanges ps s t) (h' : OnlyChanges ps t u) :
    OnlyChanges ps s u := fun p hp => (h p hp).trans (h' p hp)

theorem OnlyChanges.mono {ps qs : List Part} {s t : State} (h : OnlyChanges ps s t) (hsub : ps ⊆ qs) :
    OnlyChanges qs s t := fun p hp => h p fun hmem => hp (hsub hmem)

/-! ### Runs after an error (R275, R285) -/

/-- A step and a key event of the keypad are always answered. -/
theorem hostCall_of_isStepOrKey {op : HostOp} (h : op.isStepOrKey = true) (s : State) :
    ∃ t r, hostCall op s = .next (t, r) := by
  cases op with
  | step =>
    cases hs : step s with
    | next t => exact ⟨_, _, hostCall_step_next hs⟩
    | fault f => exact ⟨_, _, hostCall_step_fault hs⟩
    | refused e => exact absurd hs (step_ne_refused s e)
  | keyPressed k => exact ⟨_, _, hostCall_keyPressed ⟨k, of_decide_eq_true h⟩ s⟩
  | keyReleased k => exact ⟨_, _, hostCall_keyReleased ⟨k, of_decide_eq_true h⟩ s⟩
  | load | display | pixel | soundActive => cases h

theorem hostRun_of_isStepOrKey {ops : List HostOp} (h : ∀ op ∈ ops, op.isStepOrKey = true) (s : State) :
    ∃ t, hostRun ops s = some t := by
  induction ops generalizing s with
  | nil => exact ⟨s, rfl⟩
  | cons op ops ih =>
    obtain ⟨hop, hops⟩ := List.forall_mem_cons.1 h
    obtain ⟨t, r, hcall⟩ := hostCall_of_isStepOrKey hop s
    obtain ⟨u, hrun⟩ := ih hops t
    exact ⟨u, hostRun_cons hcall hrun⟩

/-- A run that is answered takes its first operation and goes on from there. -/
theorem hostRun_cons_eq_some {op : HostOp} {ops : List HostOp} {s u : State} (h : hostRun (op :: ops) s = some u) :
    ∃ t r, hostCall op s = .next (t, r) ∧ hostRun ops t = some u := by
  unfold hostRun at h
  split at h
  case h_1 t r hcall => exact ⟨t, r, hcall, h⟩
  all_goals cases h

/-- On an engine whose step raises an error, any operation but a load changes the keys and the latch only: the step
leaves the engine as it was, and so do the reads. -/
theorem hostCall_onlyChanges_of_fault {op : HostOp} {s t : State} {f : Fault} {r : HostReply}
    (hf : step s = .fault f) (hload : ∀ rom, op ≠ .load rom) (h : hostCall op s = .next (t, r)) :
    OnlyChanges [.keys, .latch] s t := by
  rcases hostCall_cases h with ⟨rom, he, -⟩ | ⟨-, hstep⟩ | ⟨k, -, rfl⟩ | ⟨k, -, rfl⟩ | rfl
  · exact absurd he (hload rom)
  · cases hf.symm.trans hstep
  · exact (s.pressKey_onlyChanges k).mono (by simp)
  · exact s.releaseKey_onlyChanges k
  · exact .refl _ _

/-- The frame of one operation goes over to the run, for the error goes over to the engine after each. -/
theorem hostRun_onlyChanges_of_fault {ops : List HostOp} {s t : State} {f : Fault} (hf : step s = .fault f)
    (hload : ∀ op ∈ ops, ∀ rom, op ≠ .load rom) (h : hostRun ops s = some t) : OnlyChanges [.keys, .latch] s t := by
  induction ops generalizing s with
  | nil =>
    cases h
    exact .refl _ _
  | cons op ops ih =>
    obtain ⟨hop, hops⟩ := List.forall_mem_cons.1 hload
    obtain ⟨u, r, hcall, hrun⟩ := hostRun_cons_eq_some h
    have hu := hostCall_onlyChanges_of_fault hf hop hcall
    exact hu.trans (ih (step_fault_of_onlyChanges hu hf) hops hrun)

/-! ### The engine after a load (R300) -/

/-- Outside the ROM a loaded engine's memory is that of reset. -/
theorem load_byte_of_outside {draws : Nat} {rom : List Byte} {s : State} (h : load draws rom = .next s) {a : Nat}
    (ha : a < 0x200 ∨ 0x200 + rom.length ≤ a) : s.byte a = State.reset.byte a := by
  rcases load_cases draws rom with ⟨hlen, he⟩ | ⟨-, he⟩
  · cases he.symm.trans h
    have hfit : 0x200 + rom.length ≤ Config.memSize := by
      simp only [Config.memSize]
      omega
    exact memGet_memStore_of_outside rfl hfit ha
  · cases he.symm.trans h

end Sys2Proof.Machine

open Sys2Proof Sys2Proof.Machine

/-- Settles O11: what operations but a load change on an engine with an error, the error does not depend on. -/
theorem errorIsPermanent : Obligations.ErrorIsPermanent := by
  intro s f ops hf
  refine ⟨fun hops => hostRun_of_isStepOrKey hops s, fun hload t hrun => ?_⟩
  have hframe := hostRun_onlyChanges_of_fault hf hload hrun
  exact ⟨step_fault_of_onlyChanges hframe hf, hframe⟩

/-- Settles O12: the error of the outcome is the row's. -/
theorem instructionErrorsAreTheTable : Obligations.InstructionErrorsAreTheTable := by
  intro i s f hsp
  rw [← faultOf_exec i hsp, faultOf_eq_some]

/-- Settles O13: the error of the outcome is the table's. -/
theorem stepErrorsInOrder : Obligations.StepErrorsInOrder := by
  intro s f hsp
  rw [← faultOf_step hsp, faultOf_eq_some]

/-- Settles O55: the loaded engine is the reset state but for the ROM in memory, or the length is refused. -/
theorem loadBuildsTheResetState : Obligations.LoadBuildsTheResetState := by
  constructor
  · intro draws rom hlen
    rcases load_cases draws rom with ⟨-, he⟩ | ⟨hgt, -⟩
    · refine ⟨_, he, fun a ha => ?_, fun a ha hlt => ?_, fun k => load_byte he, fun a ha _ => ?_, State.reset_reg, rfl,
        rfl, rfl, State.reset_slot, rfl, rfl, getPixel_clear, State.reset_key, rfl⟩
      · rw [load_byte_of_outside he (.inl (by omega)), State.reset_byte, if_pos ha]
      · rw [load_byte_of_outside he (.inl hlt), State.reset_byte, if_neg (Nat.not_lt.2 ha)]
      · rw [load_byte_of_outside he (.inr ha), State.reset_byte, if_neg (by omega)]
    · omega
  · intro draws rom hlen
    rcases load_cases draws rom with ⟨hle, -⟩ | ⟨-, he⟩
    · omega
    · exact he

end

section
/-! A load while an engine exists (spec/70_reset_and_hazards.md R301) and the
masked draw of RND (spec/42_alu.md R172). -/

namespace Sys2Proof.Machine

/-- The place in the random input decides neither whether a load is answered nor anything else of its engine. -/
theorem load_with_draws {d : Nat} {rom : List Byte} {t : State} (h : load d rom = .next t) (d' : Nat) :
    load d' rom = .next { t with draws := d' } := by
  unfold load at h ⊢
  split at h
  case isTrue => cases h
  case isFalse hlen =>
    cases h
    exact if_neg hlen

/-- A loaded engine starts at 0x200, with no wait in progress and every key released (R39, R300). -/
theorem load_start {d : Nat} {rom : List Byte} {t : State} (h : load d rom = .next t) :
    t.pc = 0x200#16 ∧ t.latch = .idle ∧ ∀ k : Fin 16, t.key k = false := by
  rcases load_cases d rom with ⟨-, he⟩ | ⟨-, he⟩
  · cases he.symm.trans h
    exact ⟨rfl, rfl, State.reset_key⟩
  · cases he.symm.trans h

/-- Only an `Ok` carries the engine an operation builds (R285). -/
theorem replyOk_eq_next_iff {q : Result} {t : State} {r : HostReply} :
    replyOk q = .next (t, r) ↔ q = .next t ∧ r = .ok := by
  cases q with
  | next u => simp [replyOk, eq_comm]
  | fault | refused => simp [replyOk]

theorem hostCall_load_eq_next {rom : List Byte} {s t : State} {r : HostReply} :
    hostCall (.load rom) s = .next (t, r) ↔ load s.draws rom = .next t ∧ r = .ok :=
  replyOk_eq_next_iff

theorem State.with_draws_onlyChanges (s : State) (d : Nat) : OnlyChanges [.draws] s { s with draws := d } := by
  intro p hp
  cases p with
  | draws => exact absurd (List.mem_singleton_self _) hp
  | v | stack | mem | keys => exact fun _ => rfl
  | fb => exact fun _ _ => rfl
  | i | pc | sp | dt | st | latch => rfl

/-- A draw masked by `kk` has no bit outside `kk`. -/
theorem masked_and_not_mask (r kk : Byte) : r &&& kk &&& ~~~kk = 0#8 := by
  rw [BitVec.and_assoc, BitVec.and_not_self]
  exact BitVec.and_zero

end Sys2Proof.Machine

open Sys2Proof Sys2Proof.Machine

/-- Settles O57: of the old engine a load is given `draws` alone, and only `draws` of the new one depends on it. -/
theorem loadKeepsNothingOfTheOldEngine : Obligations.LoadKeepsNothingOfTheOldEngine := by
  intro rom s s' t r h
  obtain ⟨hload, hr⟩ := hostCall_load_eq_next.1 h
  have hload' := load_with_draws hload s'.draws
  exact ⟨_, hostCall_load_eq_next.2 ⟨hload', hr⟩, rfl, t.with_draws_onlyChanges _, load_start hload'⟩

/-- Settles O36: RND is one register write of the masked draw, and the counter of draws advances. -/
theorem randomByteIsMasked : Obligations.RandomByteIsMasked := by
  refine ⟨rowDecodes_rnd, fun x kk s => ?_⟩
  have hexec : exec (.rnd x kk) s = .next ((s.setMasked x (Config.randByte s.draws) kk).countDraw).advance := rfl
  have hx : ((s.setMasked x (Config.randByte s.draws) kk).countDraw).advance.reg x =
      Config.randByte s.draws &&& kk := by simp
  exact ⟨_, hexec, hx, hx ▸ masked_and_not_mask _ _, fun r hr => by simp [hr], rfl, rfl, exec_onlyChanges hexec⟩

end
